-- ==== Sys2Proof/Word.lean ====
section
/-!
DEFINITION. The word types of the block (spec/00_scope.md R10): a byte is 8 bits, a nibble 4 bits,
bit 0 is the least significant bit, and every quantity is unsigned.
Offsets, sample counts and lengths are naturals (R11), not words.
-/
namespace Sys2Proof

/-- A byte: 8 bits, value 0 to 255 (R10). -/
abbrev Byte := BitVec 8

/-- A nibble: 4 bits, value 0 to 15 (R10). -/
abbrev Nibble := BitVec 4

end Sys2Proof
end

