-- ==== Sys2Proof/Config.lean ====
section
/-!
DEFINITION. The implementation parameters of spec/00_scope.md R5: what is fixed from reset to halt and
changed by no command.
The source space itself stands in State beside this record.
The spec leaves no value free (R19: nothing in the block draws a value), so there is no opaque constant here.
The values the spec decides for the parameters stand in Decode.lean (opcodes) and Machine/Params.lean.
-/
namespace Sys2Proof

/-- The seven opcode parameters of R5 (`OP_...`).
The spec gives their numbers from general knowledge and asks that they be kept as parameters (92_eei_decisions.md D1). -/
structure OpMap where
  /-- `OP_SKIP1`. -/
  skip1 : Byte
  /-- `OP_PSG_WRITE`. -/
  psgWrite : Byte
  /-- `OP_WAIT_N`. -/
  waitN : Byte
  /-- `OP_WAIT_60`. -/
  wait60 : Byte
  /-- `OP_WAIT_50`. -/
  wait50 : Byte
  /-- `OP_END`. -/
  endOfData : Byte
  /-- `OP_WAIT_SHORT_BASE`: the first of the 16 opcodes of the short-wait family. -/
  waitShortBase : Byte
deriving DecidableEq, Repr

/-- The other parameters of R5, as the configuration interface of R15 presents them at reset release. -/
structure Config where
  /-- `SRC_LEN`: how many bytes the source space has. -/
  srcLen : Nat
  /-- `START_OFFSET`: the offset of the first command byte. -/
  startOffset : Nat
  /-- `MAX_OFFSET`: no byte at or above this offset is ever read. -/
  maxOffset : Nat
  /-- `OUT_CAPACITY`: how many bytes the Output Buffer can hold (zero allowed). -/
  outCapacity : Nat
  /-- `TICK_SAMPLES`: samples per tick. -/
  tickSamples : Nat
  /-- The opcode parameters. -/
  ops : OpMap
deriving DecidableEq, Repr

end Sys2Proof
end

