-- ==== Sys2Proof/Syntax.lean ====
section
/-!
DEFINITION. The commands of the stream (spec/30_encoding.md R76, R90), one constructor for each row of
spec/opcode_table.json, and the classes the opcode byte alone selects (R74).
A field whose value the block ignores (R82) is kept in the syntax, so that a command's bytes can be written
back from it without loss.
-/
namespace Sys2Proof

/-- What the opcode byte alone decides (R70, R74): the class, and with it the length.
The two forms of the Register write are one class (R75). -/
inductive CommandClass where
  /-- SkipSecondaryByte. -/
  | skipSecondaryByte
  /-- RegisterWrite, both forms. -/
  | registerWrite
  /-- WaitSamples(n) with an explicit 16-bit count. -/
  | waitSamples
  /-- WaitFixedTick, 1/60 s. -/
  | wait60
  /-- WaitFixedTick, 1/50 s. -/
  | wait50
  /-- EndOfData. -/
  | endOfData
  /-- WaitSamples(n), the short family. -/
  | waitShort
  /-- Unknown(opcode). -/
  | unknown
deriving DecidableEq, Repr

/-- One command of the stream. -/
inductive Instr where
  /-- `SKIP1 b` (R142): the operand byte `b` is skipped. -/
  | skip1 (b : Byte)
  /-- `PSGW.L sel, val` (R102): latch form of the Register write. -/
  | psgwL (sel : BitVec 3) (val : Nibble)
  /-- `PSGW.D hi` (R106): data form of the Register write; `ignored` is operand bit 6. -/
  | psgwD (ignored : BitVec 1) (hi : BitVec 6)
  /-- `WAITN count` (R121). -/
  | waitN (count : BitVec 16)
  /-- `WAIT60` (R122). -/
  | wait60
  /-- `WAIT50` (R123). -/
  | wait50
  /-- `EOD` (R144). -/
  | eod
  /-- `WAITS count` (R124): `n` is the low nibble of the opcode byte, and the count is `n + 1`. -/
  | waitS (n : Nibble)
  /-- `UNKNOWN` (R146): an opcode byte outside the map. -/
  | unknown (op : Byte)
deriving DecidableEq, Repr

end Sys2Proof
end

