-- ==== Sys2Proof/WellFormed.lean ====
section
/-!
DEFINITION. What a proper opcode map is (spec/00_scope.md R5) and what a well-formed command is under a map
(spec/30_encoding.md R76, R80).
Every operand field of a command is as wide as its encoding, so every value of it is legal (R82).
The one condition on a command is that an UNKNOWN holds an opcode byte that no row of the map recognises.
-/
namespace Sys2Proof

/-- `OP_WAIT_SHORT_BASE <= op <= OP_WAIT_SHORT_BASE + 15` (R76), on naturals. -/
def OpMap.inShortFamily (m : OpMap) (op : Byte) : Bool :=
  decide (m.waitShortBase.toNat ≤ op.toNat) && decide (op.toNat ≤ m.waitShortBase.toNat + 15)

/-- The six opcode parameters that name a single byte. -/
def OpMap.singles (m : OpMap) : List Byte :=
  [m.skip1, m.psgWrite, m.waitN, m.wait60, m.wait50, m.endOfData]

/-- `op` is one of the opcode bytes of the map (R76). -/
def OpMap.recognises (m : OpMap) (op : Byte) : Bool :=
  m.singles.contains op || m.inShortFamily op

/-- A proper map (R5): the opcode parameters are pairwise distinct and none lies in the short-wait family.
The family is the 16 bytes that share one high nibble (R71), so its base has low nibble 0
(DEDUCED, notes/assumptions/6.md). -/
def OpMap.wf (m : OpMap) : Bool :=
  decide m.singles.Nodup && m.singles.all (fun op => !m.inShortFamily op)
    && decide (m.waitShortBase.extractLsb' 0 4 = 0#4)

/-- A well-formed command under the map `m`. -/
def Instr.wf (m : OpMap) : Instr → Bool
  | .skip1 _ => true
  | .psgwL _ _ => true
  | .psgwD _ _ => true
  | .waitN _ => true
  | .wait60 => true
  | .wait50 => true
  | .eod => true
  | .waitS _ => true
  | .unknown op => !m.recognises op

end Sys2Proof
end

