-- ==== Sys2Proof/Decode.lean ====
section
/-!
DEFINITION. The opcode map with the spec's numbers, classification of an opcode byte, the decoder from stream
bytes to a command, and the encoder back (spec/30_encoding.md R70 to R83, R90, R91).
-/
namespace Sys2Proof

/-- The opcode numbers the spec decides (00_scope.md R5, 92_eei_decisions.md D1).
The spec has them from general knowledge of the VGM format (PRESUMED, notes/assumptions/5.md). -/
def OpMap.decided : OpMap where
  skip1 := 0x4F
  psgWrite := 0x50
  waitN := 0x61
  wait60 := 0x62
  wait50 := 0x63
  endOfData := 0x66
  waitShortBase := 0x70

/-- Classification (R74, R76): total on the 256 byte values, and a function of the opcode byte alone. -/
def classify (m : OpMap) (op : Byte) : CommandClass :=
  if op = m.skip1 then .skipSecondaryByte
  else if op = m.psgWrite then .registerWrite
  else if op = m.waitN then .waitSamples
  else if op = m.wait60 then .wait60
  else if op = m.wait50 then .wait50
  else if op = m.endOfData then .endOfData
  else if m.inShortFamily op then .waitShort
  else .unknown

/-- Length in bytes of every command of a class (R78). -/
def CommandClass.length : CommandClass → Nat
  | .skipSecondaryByte => 2
  | .registerWrite => 2
  | .waitSamples => 3
  | .wait60 => 1
  | .wait50 => 1
  | .endOfData => 1
  | .waitShort => 1
  | .unknown => 1

/-- Length of the command that an opcode byte begins (R78). -/
def commandLength (m : OpMap) (op : Byte) : Nat := (classify m op).length

/-- Second-level decode of the Register write (R73, R75): bit 7 of the operand byte selects the form. -/
def decodePsgOperand (d : Byte) : Instr :=
  if d.getLsbD 7 then .psgwL (d.extractLsb' 4 3) (d.extractLsb' 0 4)
  else .psgwD (d.extractLsb' 6 1) (d.extractLsb' 0 6)

/-- The count of WAITN from its two operand bytes, low byte first (R57, R80). -/
def waitCount (lo hi : Byte) : BitVec 16 := hi ++ lo

/-- Why bytes are no command.
No opcode is illegal (R82): the only way to fail is to run out of bytes. -/
inductive DecodeError where
  /-- There is not even an opcode byte. -/
  | noOpcodeByte
  /-- The opcode byte claims a command of `length` bytes and fewer are there. -/
  | cutShort (length : Nat)
deriving DecidableEq, Repr

/-- What the decoder answers. -/
inductive Decoded where
  /-- A command, and the bytes after it. -/
  | command (i : Instr) (rest : List Byte)
  /-- No command, for the named reason. -/
  | rejected (e : DecodeError)
deriving DecidableEq, Repr

/-- The command of a class from its opcode byte and the bytes after it (R71): the operand bytes the class has, in
increasing offset order. -/
def decodeClass (c : CommandClass) (op : Byte) (after : List Byte) : Decoded :=
  match c, after with
  | .skipSecondaryByte, b :: rest => .command (.skip1 b) rest
  | .skipSecondaryByte, [] => .rejected (.cutShort 2)
  | .registerWrite, d :: rest => .command (decodePsgOperand d) rest
  | .registerWrite, [] => .rejected (.cutShort 2)
  | .waitSamples, lo :: hi :: rest => .command (.waitN (waitCount lo hi)) rest
  | .waitSamples, [_] => .rejected (.cutShort 3)
  | .waitSamples, [] => .rejected (.cutShort 3)
  | .wait60, rest => .command .wait60 rest
  | .wait50, rest => .command .wait50 rest
  | .endOfData, rest => .command .eod rest
  | .waitShort, rest => .command (.waitS (op.extractLsb' 0 4)) rest
  | .unknown, rest => .command (.unknown op) rest

/-- The decoder, total on any bytes (R70 to R76): classification of the opcode byte, then its class's operands. -/
def decode (m : OpMap) : List Byte → Decoded
  | [] => .rejected .noOpcodeByte
  | op :: after => decodeClass (classify m op) op after

/-- The encoder (R71, R73, R90): the bytes of a command, in stream order. -/
def encode (m : OpMap) : Instr → List Byte
  | .skip1 b => [m.skip1, b]
  | .psgwL sel val => [m.psgWrite, 1#1 ++ sel ++ val]
  | .psgwD ignored hi => [m.psgWrite, 0#1 ++ ignored ++ hi]
  | .waitN count => [m.waitN, count.extractLsb' 0 8, count.extractLsb' 8 8]
  | .wait60 => [m.wait60]
  | .wait50 => [m.wait50]
  | .eod => [m.endOfData]
  | .waitS n => [m.waitShortBase.extractLsb' 4 4 ++ n]
  | .unknown op => [op]

/-- Length in bytes of a command (R78). -/
def Instr.length : Instr → Nat
  | .skip1 _ => 2
  | .psgwL _ _ => 2
  | .psgwD _ _ => 2
  | .waitN _ => 3
  | .wait60 => 1
  | .wait50 => 1
  | .eod => 1
  | .waitS _ => 1
  | .unknown _ => 1

/-- The notation `TONE k, p` of R91: the two commands that write the 10-bit period `p` to tone `k`. -/
def toneCommands (k : Fin 3) (p : BitVec 10) : List Instr :=
  [.psgwL (BitVec.ofNat 3 (2 * k.val)) (p.extractLsb' 0 4), .psgwD 0#1 (p.extractLsb' 4 6)]

/-- The first three bytes of an instruction whose bits are `w`, numbered as spec/opcode_table.json numbers
them; the bits at and above `nbits` are 0.
Three bytes are the longest command (R83). -/
def tableWordBytes (nbits w : Nat) : List Byte :=
  let v := w % 2 ^ nbits
  [BitVec.ofNat 8 v, BitVec.ofNat 8 (v / 256), BitVec.ofNat 8 (v / 65536)]

/-- The command the decoder reads, under the decided opcode numbers, from a table row's bits. -/
def decodeTableWord (nbits w : Nat) : Option Instr :=
  match decode OpMap.decided (tableWordBytes nbits w) with
  | .command i _ => some i
  | .rejected _ => none

end Sys2Proof
end

