-- ==== Sys2Proof/Machine/Params.lean ====
section
/-!
DEFINITION. The values the spec decides for its parameters, and which configurations have a run
(spec/00_scope.md R5, R6; 92_eei_decisions.md D2, D3, D20; 93_implementation_defined.md U6).
-/
namespace Sys2Proof.Machine

/-- `WAIT_60_SAMPLES` (R5, R122): a property of the input format, not of the tick (R6). -/
def wait60Samples : Nat := 735

/-- `WAIT_50_SAMPLES` (R5, R123): 44100 / 50 (D3, notes/assumptions/14.md). -/
def wait50Samples : Nat := 882

/-- `TICK_SAMPLES` as the spec decides it (R5; D2, notes/assumptions/14.md). -/
def tickSamplesDecided : Nat := 735

/-- The configuration of `State.reset`.
`TICK_SAMPLES` and the opcodes are the spec's; the four the spec leaves OPEN are the model's:
an empty stream and room for 64 bytes (DESIGN CHOICE, notes/assumptions/2.md). -/
def configAtReset : Config where
  srcLen := 0
  startOffset := 0
  maxOffset := 0
  outCapacity := 64
  tickSamples := tickSamplesDecided
  ops := OpMap.decided

/-- The configuration has a run: `START_OFFSET <= MAX_OFFSET <= SRC_LEN` (D20), `TICK_SAMPLES` is positive,
and the opcode map is proper (R5).
Any other is refused (U6). -/
def configValid (c : Config) : Bool :=
  decide (c.startOffset ≤ c.maxOffset) && decide (c.maxOffset ≤ c.srcLen)
    && decide (0 < c.tickSamples) && c.ops.wf

end Sys2Proof.Machine
end

