-- ==== Sys2Proof/Machine/State.lean ====
section
/-!
DEFINITION. Everything the spec gives the machine (spec/10_state.md), as plain data, and its value after reset
(R38, R220).
-/
namespace Sys2Proof.Machine

/-- The eight registers of R20 by name. -/
inductive Reg where
  | tone0 | vol0 | tone1 | vol1 | tone2 | vol2 | noise | volN
deriving DecidableEq, Repr

/-- A Register State (R20): eight registers that do not alias. -/
structure Regs where
  /-- `TONE0`, index 0: bits 9 to 2 of tone 0's period (R21). -/
  tone0 : Byte
  /-- `VOL0`, index 1: tone 0's volume, stored as 15 - nibble (R23). -/
  vol0 : Nibble
  /-- `TONE1`, index 2 (R21). -/
  tone1 : Byte
  /-- `VOL1`, index 3 (R23). -/
  vol1 : Nibble
  /-- `TONE2`, index 4 (R21). -/
  tone2 : Byte
  /-- `VOL2`, index 5 (R23). -/
  vol2 : Nibble
  /-- `NOISE`, index 6: the noise mode and rate value (R22). -/
  noise : Nibble
  /-- `VOLN`, index 7: the noise channel's volume (R23). -/
  volN : Nibble
deriving DecidableEq, Repr

/-- All eight registers zero: the reset value of both register files (R38). -/
def Regs.zero : Regs := ⟨0, 0, 0, 0, 0, 0, 0, 0⟩

/-- `STATUS` (R33). -/
inductive Status where
  /-- The pass is in progress. -/
  | running
  /-- An End-of-data command was executed and its Flush completed. -/
  | doneEnd
  /-- The stream ran out at a command boundary and the final Flush completed. -/
  | doneExhausted
  /-- A frame did not fit in the Output Buffer. -/
  | stoppedCapacity
  /-- A command extended past `MAX_OFFSET`. -/
  | faultFraming
deriving DecidableEq, Repr

/-- The input stream space (R50): the bytes the loader has placed, by offset, offsets strictly rising.
An unlisted offset holds no byte (notes/assumptions/4.md). -/
abbrev Memory := List Host.Cell

/-- One entry of `UNKNOWN_LOG` (R35): the offset and the opcode byte. -/
abbrev LogEntry := Nat × Byte

/-- The machine.
`cfg` and `src` are the configuration that reset sampled (R15, R220); no step changes them
(notes/assumptions/1.md). -/
structure State where
  /-- The parameters of R5, sampled at reset release. -/
  cfg : Config
  /-- `SRC` (R5, R50): the input stream space. -/
  src : Memory
  /-- `PC` (R27): the offset of the next command's opcode byte. -/
  pc : Nat
  /-- `CUR` (R24): the Decoder's Register State. -/
  cur : Regs
  /-- `PREV` (R25): the Encoder's Register State, as last emitted. -/
  prev : Regs
  /-- `LATCH` (R28): the selector a data byte will use. -/
  latch : BitVec 3
  /-- `PENDING_DELAY` (R29), in samples, unbounded (D8, notes/assumptions/13.md). -/
  pendingDelay : Nat
  /-- `OUT` (R30): the bytes appended so far, in order; `OUT_LEN` is its length (notes/assumptions/25.md). -/
  out : List Byte
  /-- `STATUS` (R33). -/
  status : Status
  /-- `ERR_OFFSET` (R34). -/
  errOffset : Nat
  /-- `UNKNOWN_LOG` (R35), in stream order; `UNKNOWN_COUNT` is its length. -/
  unknownLog : List LogEntry
deriving DecidableEq, Repr

/-- Reads that the spec says cannot be made.
No run of a configuration that has a run and is loaded meets one (R52). -/
inductive Fault where
  /-- Raised by the fetch when `PC` lies outside `START_OFFSET .. MAX_OFFSET - 1` (R50, R51).
  Safe: no reachable state has such a `PC` (R40 (a), notes/assumptions/24.md). -/
  | fetchOutOfBounds
  /-- Raised by the fetch when a byte that the command reads (R53) is inside the bounds and the loader placed none
  there.
  Safe: the loader's guarantee (R51, R225) excludes it. -/
  | sourceByteAbsent
deriving DecidableEq, Repr

/-- Why a state has no step. -/
inductive Refusal where
  /-- Raised by no arm of `exec`, since every instruction has its meaning; the host's interface names it.  Safe. -/
  | notModelled (mnemonic : String)
  /-- Raised by `step` on a configuration that breaks the loader's contract (D20, U6).
  Safe: no claim can be made about such a configuration. -/
  | badConfiguration
deriving DecidableEq, Repr

/-- What a step or a meaning answers. -/
abbrev Result := Host.Outcome State Fault Refusal

/-- Reset (R38, R220): samples a configuration and a source space and gives every piece of state its reset
value. -/
def State.resetWith (cfg : Config) (src : Memory) : State where
  cfg := cfg
  src := src
  pc := cfg.startOffset
  cur := Regs.zero
  prev := Regs.zero
  latch := 0
  pendingDelay := 0
  out := []
  status := .running
  errOffset := 0
  unknownLog := []

/-- The machine right after reset with nothing placed in the source space (notes/assumptions/2.md, 3.md). -/
def State.reset : State := State.resetWith configAtReset []

end Sys2Proof.Machine
end

