-- ==== Sys2Proof/Machine/Flags.lean ====
section
/-!
DEFINITION. The six change flags and the frame bytes made from them (spec/43_frame_encoder.md R162, R165;
spec/30_encoding.md R84 to R87).
The block has no condition flags (spec/10_state.md R32).
-/
namespace Sys2Proof.Machine

/-- The change flags of one frame. -/
structure ChangeFlags where
  /-- `F_TONE0`. -/
  tone0 : Bool
  /-- `F_TONE1`. -/
  tone1 : Bool
  /-- `F_TONE2`. -/
  tone2 : Bool
  /-- `F_NOISE`. -/
  noise : Bool
  /-- `F_VOL01`. -/
  vol01 : Bool
  /-- `F_VOL2N`. -/
  vol2n : Bool
deriving DecidableEq, Repr

/-- Change detection (R162): stored values compared; a volume pair is one flag. -/
def changeFlags (cur prev : Regs) : ChangeFlags where
  tone0 := cur.tone0 != prev.tone0
  tone1 := cur.tone1 != prev.tone1
  tone2 := cur.tone2 != prev.tone2
  noise := cur.noise != prev.noise
  vol01 := cur.vol0 != prev.vol0 || cur.vol1 != prev.vol1
  vol2n := cur.vol2 != prev.vol2 || cur.volN != prev.volN

/-- A flag as a byte. -/
def flagByte (b : Bool) : Byte := if b then 1#8 else 0#8

/-- The header byte (R85) for a delay field `d` of 0 to 3.
The places inside the two flag groups are decision D9 (notes/assumptions/11.md). -/
def headerByte (d : Nat) (f : ChangeFlags) : Byte :=
  (BitVec.ofNat 8 d <<< 6) ||| (flagByte f.vol2n <<< 5) ||| (flagByte f.vol01 <<< 4)
    ||| (flagByte f.noise <<< 3) ||| (flagByte f.tone2 <<< 2) ||| (flagByte f.tone1 <<< 1)
    ||| flagByte f.tone0

/-- One payload byte if its flag is set. -/
def payloadIf (flag : Bool) (b : Byte) : List Byte := if flag then [b] else []

/-- Two volumes in one byte (R86): the first register of the pair in the low nibble. -/
def volumePair (low high : Nibble) : Byte := high ++ low

/-- The payload bytes in their fixed order (R86).
The noise byte has a zero upper nibble (D10, notes/assumptions/11.md). -/
def payloadBytes (f : ChangeFlags) (cur : Regs) : List Byte :=
  payloadIf f.tone0 cur.tone0 ++ payloadIf f.tone1 cur.tone1 ++ payloadIf f.tone2 cur.tone2
    ++ payloadIf f.noise (cur.noise.setWidth 8)
    ++ payloadIf f.vol01 (volumePair cur.vol0 cur.vol1)
    ++ payloadIf f.vol2n (volumePair cur.vol2 cur.volN)

/-- How many payload bytes a header announces (R87): the number of set bits among `h[5:0]`. -/
def payloadLength (h : Byte) : Nat :=
  (h.getLsbD 0).toNat + (h.getLsbD 1).toNat + (h.getLsbD 2).toNat + (h.getLsbD 3).toNat
    + (h.getLsbD 4).toNat + (h.getLsbD 5).toNat

/-- A continuation frame (R167): the delay field alone. -/
def continuationFrame (d : Nat) : List Byte := [BitVec.ofNat 8 d <<< 6]

end Sys2Proof.Machine
end

