-- ==== Sys2Proof/Machine/Memory.lean ====
section
/-!
DEFINITION. The input stream space (spec/20_memory.md R50 to R53, R57, R61, R64): a list of cells with strictly
rising offsets.
The block only reads it; `write` and `load` are the loader's (R225).
-/
namespace Sys2Proof.Machine

/-- The canonical form: offsets strictly rise.
An unlisted offset reads as no byte, so no entry can repeat what an unlisted one reads as. -/
abbrev Memory.wf (m : Memory) : Prop := m.Pairwise fun x y => x.1 < y.1

/-- The byte at an offset, if the loader placed one. -/
def Memory.read : Memory → Nat → Option Byte
  | [], _ => none
  | (b, v) :: rest, a => if a = b then some v else Memory.read rest a

/-- The loader places one byte. -/
def Memory.write : Memory → Nat → Byte → Memory
  | [], a, v => [(a, v)]
  | (b, x) :: rest, a, v =>
    if a < b then (a, v) :: (b, x) :: rest
    else if a = b then (a, v) :: rest
    else (b, x) :: Memory.write rest a v

/-- The loader places bytes at an offset and the ones after it. -/
def Memory.load (m : Memory) (a : Nat) : List Byte → Memory
  | [] => m
  | v :: rest => Memory.load (Memory.write m a v) (a + 1) rest

/-- `MemRead(off, 1)` (R12, R52): defined only below `MAX_OFFSET`, and the block reads no byte of the
container header below `START_OFFSET` (R51). -/
def srcByte (s : State) (off : Nat) : Option Byte :=
  if s.cfg.startOffset ≤ off ∧ off < s.cfg.maxOffset then Memory.read s.src off else none

/-- `MemRead(addr, n)` (R12, R52): the `n` bytes from `addr` on, in increasing offset order. -/
def memRead (s : State) (addr : Nat) : Nat → Option (List Byte)
  | 0 => some []
  | n + 1 =>
    match srcByte s addr, memRead s (addr + 1) n with
    | some b, some bs => some (b :: bs)
    | _, _ => none

end Sys2Proof.Machine
end

