-- ==== Sys2Proof/Machine/Ops.lean ====
section
/-!
DEFINITION. The shared operations over the state: the three conditions of spec/60_exceptions.md R190 and what
taking each one writes, the halts, the append to the Output Buffer (spec/20_memory.md R55, R56), the advance of
PC, the bound test, and reset applied to a machine in any state.
-/
namespace Sys2Proof.Machine

/-- The conditions of R190. -/
inductive Condition where
  /-- `Framing(off)`: a command extends past `MAX_OFFSET`. -/
  | framing (off : Nat)
  /-- `Unknown(off, op)`: an opcode byte outside the map. -/
  | unknown (off : Nat) (op : Byte)
  /-- `Capacity`: a frame does not fit in the Output Buffer. -/
  | capacity
deriving DecidableEq, Repr

/-- Taking a condition (R191 to R194, R197).
There is no handler, no saved program counter but `PC` itself and no mode: `Framing` writes `ERR_OFFSET` and
halts, `Capacity` halts, `Unknown` is a record and the pass goes on (D16, D17, notes/assumptions/19.md, 20.md). -/
def raise (c : Condition) (s : State) : State :=
  match c with
  | .framing off => { s with errOffset := off, status := .faultFraming }
  | .unknown off op => { s with unknownLog := s.unknownLog ++ [(off, op)] }
  | .capacity => { s with status := .stoppedCapacity }

/-- `halt(cause)` (R12, R199). -/
def halt (cause : Status) (s : State) : State := { s with status := cause }

/-- The way out of a halted state (R199, R220): reset, which may be applied in any state and always has the
same effect.
There is no return from a condition and no resume (D27, notes/assumptions/28.md). -/
def applyReset (cfg : Config) (src : Memory) (_s : State) : State := State.resetWith cfg src

/-- `PC <- PC + len`. -/
def advance (len : Nat) (s : State) : State := { s with pc := s.pc + len }

/-- `PENDING_DELAY <- PENDING_DELAY + count`, exact (R120, R128). -/
def addDelay (count : Nat) (s : State) : State := { s with pendingDelay := s.pendingDelay + count }

/-- `OUT_LEN` (R30). -/
abbrev outLen (s : State) : Nat := s.out.length

/-- The capacity test on a whole frame of `len` bytes (R55; D13, notes/assumptions/17.md). -/
def fits (len : Nat) (s : State) : Bool := decide (outLen s + len ≤ s.cfg.outCapacity)

/-- `Append(bytes)` (R56); its precondition is `fits`. -/
def append (bytes : List Byte) (s : State) : State := { s with out := s.out ++ bytes }

/-- The bound test of R79: a command of `len` bytes at `PC` lies below `MAX_OFFSET`. -/
def wellFramed (len : Nat) (s : State) : Bool := decide (s.pc + len ≤ s.cfg.maxOffset)

/-- A command of `len` bytes that runs `body` if it is well framed and raises `Framing(PC)` if not, before any
other effect (R79, R191, R196; notes/assumptions/27.md). -/
def ifFramed (len : Nat) (s : State) (body : Result) : Result :=
  if wellFramed len s then body else .next (raise (.framing s.pc) s)

end Sys2Proof.Machine
end

