-- ==== Sys2Proof/Machine/Frame.lean ====
section
/-!
DEFINITION. The Frame Encoder, `Flush` (spec/43_frame_encoder.md R160 to R173), and the Decoder's
flush-before-write (spec/40_psg_write.md R101).
-/
namespace Sys2Proof.Machine

/-- What a Flush returns (R160), with the state it leaves. -/
inductive FlushResult where
  /-- Every frame was committed. -/
  | ok (s : State)
  /-- A frame did not fit; the frames before it stand (R173). -/
  | truncated (s : State)
deriving DecidableEq, Repr

/-- Whole ticks pending (R163). -/
def pendingTicks (s : State) : Nat := s.pendingDelay / s.cfg.tickSamples

/-- A delay field (R164, R167): at most 3 ticks. -/
def delayField (ticks : Nat) : Nat := min ticks 3

/-- `PENDING_DELAY <- PENDING_DELAY - d * TICK_SAMPLES` (R171). -/
def consumeDelay (d : Nat) (s : State) : State :=
  { s with pendingDelay := s.pendingDelay - d * s.cfg.tickSamples }

/-- Commit one frame with delay field `d`, or nothing if the whole frame does not fit (R55, R171, R172). -/
def commitFrame (d : Nat) (frame : List Byte) (s : State) : Option State :=
  if fits frame.length s then some (consumeDelay d (append frame s)) else none

/-- The bytes of the first frame of a Flush (R164, R165). -/
def firstFrame (s : State) : List Byte :=
  let f := changeFlags s.cur s.prev
  headerByte (delayField (pendingTicks s)) f :: payloadBytes f s.cur

/-- The continuation frames for `ticks` remaining ticks (R167, the loop of R169).
`fuel` bounds the loop; each round takes at least one tick, so `fuel = ticks` is enough. -/
def continueFrames : Nat → Nat → State → FlushResult
  | 0, _, s => .ok s
  | fuel + 1, ticks, s =>
    if ticks = 0 then .ok s
    else
      match commitFrame (delayField ticks) (continuationFrame (delayField ticks)) s with
      | none => .truncated s
      | some s' => continueFrames fuel (ticks - delayField ticks) s'

/-- `Flush()` (R169): the first frame, `PREV <- CUR` once it is committed (R170), then the continuations. -/
def flush (s : State) : FlushResult :=
  let ticks := pendingTicks s
  let d := delayField ticks
  match commitFrame d (firstFrame s) s with
  | none => .truncated s
  | some s' => continueFrames ticks (ticks - d) { s' with prev := s'.cur }

/-- Flush-before-write (R101 step 3): a Flush when any sample is pending (D11, notes/assumptions/16.md). -/
def flushIfPending (s : State) : FlushResult :=
  if s.pendingDelay ≠ 0 then flush s else .ok s

/-- What the caller of a Flush does (R141, R144, R172, R193): go on when it is `ok`, and take `Capacity` when it
is `truncated`, which abandons the command (D14, notes/assumptions/12.md). -/
def afterFlush (r : FlushResult) (go : State → State) : Result :=
  match r with
  | .ok s => .next (go s)
  | .truncated s => .next (raise .capacity s)

end Sys2Proof.Machine
end

