-- ==== Sys2Proof/Machine/Operands.lean ====
section
/-!
DEFINITION. The register selector map and the value each operand form of a Register write stores
(spec/10_state.md R20 to R23; spec/40_psg_write.md R102 to R107), and the count of the short wait
(spec/30_encoding.md R80).
-/
namespace Sys2Proof.Machine

/-- The selector-to-register map (R20; 92_eei_decisions.md D4, notes/assumptions/7.md). -/
def selectReg (sel : BitVec 3) : Reg :=
  match sel.toNat with
  | 0 => .tone0
  | 1 => .vol0
  | 2 => .tone1
  | 3 => .vol1
  | 4 => .tone2
  | 5 => .vol2
  | 6 => .noise
  | _ => .volN

/-- Read one register of a register file (R12 `x[i]`), zero-extended to a byte. -/
def Regs.read (x : Regs) : Reg → Byte
  | .tone0 => x.tone0
  | .vol0 => x.vol0.setWidth 8
  | .tone1 => x.tone1
  | .vol1 => x.vol1.setWidth 8
  | .tone2 => x.tone2
  | .vol2 => x.vol2.setWidth 8
  | .noise => x.noise.setWidth 8
  | .volN => x.volN.setWidth 8

/-- A tone register after a latch byte (R103): bits 1 and 0 become `val[3:2]`, and `val[1:0]` is discarded. -/
def toneAfterLatch (old : Byte) (val : Nibble) : Byte :=
  (old &&& 0xFC#8) ||| (val >>> 2).setWidth 8

/-- A tone register after a data byte (R106): bits 7 to 2 become `hi`. -/
def toneAfterData (old : Byte) (hi : BitVec 6) : Byte :=
  (old &&& 0x03#8) ||| (hi.setWidth 8 <<< 2)

/-- The stored volume for a wire nibble (R105): `15 - val` (which end is loud is not modelled, C5,
notes/assumptions/29.md). -/
def volumeOf (val : Nibble) : Nibble := 15#4 - val

/-- What a latch byte does to the register it selects (R102 to R105). -/
def Regs.latchWrite (x : Regs) (r : Reg) (val : Nibble) : Regs :=
  match r with
  | .tone0 => { x with tone0 := toneAfterLatch x.tone0 val }
  | .tone1 => { x with tone1 := toneAfterLatch x.tone1 val }
  | .tone2 => { x with tone2 := toneAfterLatch x.tone2 val }
  | .noise => { x with noise := val }
  | .vol0 => { x with vol0 := volumeOf val }
  | .vol1 => { x with vol1 := volumeOf val }
  | .vol2 => { x with vol2 := volumeOf val }
  | .volN => { x with volN := volumeOf val }

/-- What a data byte does to the register the Latch selects (R106); on a 4-bit register nothing (R107; D5, D6,
notes/assumptions/8.md). -/
def Regs.dataWrite (x : Regs) (r : Reg) (hi : BitVec 6) : Regs :=
  match r with
  | .tone0 => { x with tone0 := toneAfterData x.tone0 hi }
  | .tone1 => { x with tone1 := toneAfterData x.tone1 hi }
  | .tone2 => { x with tone2 := toneAfterData x.tone2 hi }
  | .noise => x
  | .vol0 => x
  | .vol1 => x
  | .vol2 => x
  | .volN => x

/-- The count of WAITS (R80, R124): `n + 1`, 1 to 16. -/
def shortCount (n : Nibble) : Nat := n.toNat + 1

end Sys2Proof.Machine
end

