-- ==== Sys2Proof/Machine/PsgWrite.lean ====
section
/-!
DEFINITION. The Register write command in its two forms (spec/40_psg_write.md R100 to R112).
-/
namespace Sys2Proof.Machine

/-- The common part of both forms (R101): the bound test, the flush-before-write, the operand, `PC + 2`. -/
def registerWrite (apply : State → State) (s : State) : Result :=
  ifFramed 2 s (afterFlush (flushIfPending s) fun t => advance 2 (apply t))

/-- A latch byte on `CUR` and `LATCH` (R102). -/
def applyLatch (sel : BitVec 3) (val : Nibble) (s : State) : State :=
  { s with latch := sel, cur := s.cur.latchWrite (selectReg sel) val }

/-- A data byte on `CUR` (R106, R107): `LATCH` is read and kept. -/
def applyData (hi : BitVec 6) (s : State) : State :=
  { s with cur := s.cur.dataWrite (selectReg s.latch) hi }

/-- `PSGW.L sel, val` (R102). -/
def execPsgwL (sel : BitVec 3) (val : Nibble) (s : State) : Result :=
  registerWrite (applyLatch sel val) s

/-- `PSGW.D hi` (R106); operand bit 6 is ignored (R73, notes/assumptions/26.md). -/
def execPsgwD (_ignored : BitVec 1) (hi : BitVec 6) (s : State) : Result :=
  registerWrite (applyData hi) s

end Sys2Proof.Machine
end

