-- ==== Sys2Proof/Machine/StreamControl.lean ====
section
/-!
DEFINITION. SKIP1, EOD, UNKNOWN and the exhaustion step (spec/42_stream_control.md R141 to R147).
-/
namespace Sys2Proof.Machine

/-- `SKIP1 b` (R142): the operand byte is discarded and `PC` is all that changes (notes/assumptions/26.md). -/
def execSkip1 (_b : Byte) (s : State) : Result := ifFramed 2 s (.next (advance 2 s))

/-- `EOD` (R144): an unconditional Flush, then the halt; `PC` moves on (D22, notes/assumptions/21.md). -/
def execEod (s : State) : Result :=
  afterFlush (flush s) fun t => halt .doneEnd (advance 1 t)

/-- `UNKNOWN` (R146): a record of offset and opcode byte, and one byte consumed (D17, D24,
notes/assumptions/20.md). -/
def execUnknown (op : Byte) (s : State) : Result :=
  .next (advance 1 (raise (.unknown s.pc op) s))

/-- The exhaustion step (R141): the final Flush, then the halt; no byte is read and `PC` stays (D15,
notes/assumptions/18.md). -/
def exhaustionStep (s : State) : Result :=
  afterFlush (flush s) (halt .doneExhausted)

end Sys2Proof.Machine
end

