-- ==== Sys2Proof/Machine/Wait.lean ====
section
/-!
DEFINITION. The four wait commands (spec/41_wait.md R120 to R128): they add samples to PENDING_DELAY and never
invoke Flush.
-/
namespace Sys2Proof.Machine

/-- What every wait does (R120). -/
def waitFor (count len : Nat) (s : State) : State := advance len (addDelay count s)

/-- `WAITN count` (R121); a count of 0 is legal (D23, notes/assumptions/22.md). -/
def execWaitN (count : BitVec 16) (s : State) : Result :=
  ifFramed 3 s (.next (waitFor count.toNat 3 s))

/-- `WAIT60` (R122).
A command of one byte is well framed whenever its opcode byte can be read (R79), so there is no test. -/
def execWait60 (s : State) : Result := .next (waitFor wait60Samples 1 s)

/-- `WAIT50` (R123). -/
def execWait50 (s : State) : Result := .next (waitFor wait50Samples 1 s)

/-- `WAITS count` (R124), with `count = n + 1`. -/
def execWaitS (n : Nibble) (s : State) : Result := .next (waitFor (shortCount n) 1 s)

end Sys2Proof.Machine
end

