-- ==== Sys2Proof/Machine/Dispatch.lean ====
section
/-!
DEFINITION. One arm for each command (spec/42_stream_control.md R140).
-/
namespace Sys2Proof.Machine

/-- The meaning of a well-decoded command. -/
def exec (i : Instr) (s : State) : Host.Outcome State Fault Refusal :=
  match i with
  | .skip1 b => Sys2Proof.Machine.execSkip1 b s
  | .psgwL sel val => Sys2Proof.Machine.execPsgwL sel val s
  | .psgwD ignored hi => Sys2Proof.Machine.execPsgwD ignored hi s
  | .waitN count => Sys2Proof.Machine.execWaitN count s
  | .wait60 => Sys2Proof.Machine.execWait60 s
  | .wait50 => Sys2Proof.Machine.execWait50 s
  | .eod => Sys2Proof.Machine.execEod s
  | .waitS n => Sys2Proof.Machine.execWaitS n s
  | .unknown op => Sys2Proof.Machine.execUnknown op s

end Sys2Proof.Machine
end

