-- ==== Sys2Proof/Machine/Fetch.lean ====
section
/-!
DEFINITION. The fetch of one command (spec/42_stream_control.md R140; spec/20_memory.md R52, R53;
spec/30_encoding.md R79), and the loader's placing of one command at PC.
-/
namespace Sys2Proof.Machine

/-- What the fetch finds at `PC`. -/
inductive Fetched where
  /-- A whole command below `MAX_OFFSET`. -/
  | command (i : Instr)
  /-- A command that extends past `MAX_OFFSET` (R79): which form it is stays unknown (R205). -/
  | badlyFramed
  /-- A byte that cannot be read. -/
  | unreadable (f : Fault)
deriving DecidableEq, Repr

/-- How many operand bytes of a command the step reads (R53): the operand byte of SKIP1 is skipped, not read. -/
def operandsRead : CommandClass → Nat
  | .skipSecondaryByte => 0
  | .registerWrite => 1
  | .waitSamples => 2
  | .wait60 => 0
  | .wait50 => 0
  | .endOfData => 0
  | .waitShort => 0
  | .unknown => 0

/-- What stands for the operand bytes that the step does not read: zeros, on which no meaning depends
(notes/assumptions/26.md). -/
def operandsUnread (c : CommandClass) : List Byte :=
  List.replicate (c.length - 1 - operandsRead c) 0#8

/-- The fetch, in the order of R53, R79 and R196: the opcode byte, its class and length, the bound test over all the
command's bytes, and only then the operand bytes that the command reads. -/
def fetch (s : State) : Fetched :=
  if ¬(s.cfg.startOffset ≤ s.pc ∧ s.pc < s.cfg.maxOffset) then .unreadable .fetchOutOfBounds
  else
    match srcByte s s.pc with
    | none => .unreadable .sourceByteAbsent
    | some op =>
      let c := classify s.cfg.ops op
      if wellFramed c.length s then
        match memRead s (s.pc + 1) (operandsRead c) with
        | none => .unreadable .sourceByteAbsent
        | some operands =>
          match decode s.cfg.ops (op :: operands ++ operandsUnread c) with
          | .command i _ => .command i
          | .rejected _ => .badlyFramed
      else .badlyFramed

/-- The loader places bytes at `PC`, makes the bounds take them in, and sets all else the next step needs to
run them: the decided opcode numbers and `STATUS = RUNNING` (notes/assumptions/3.md). -/
def placeAtPc (bytes : List Byte) (s : State) : State :=
  let top := max s.cfg.maxOffset (s.pc + bytes.length)
  { s with
    cfg := { s.cfg with
      startOffset := min s.cfg.startOffset s.pc
      maxOffset := top
      srcLen := max s.cfg.srcLen top
      ops := OpMap.decided }
    src := Memory.load s.src s.pc bytes
    status := .running }

end Sys2Proof.Machine
end

