-- ==== Sys2Proof/Machine/Step.lean ====
section
/-!
DEFINITION. The step of the block (spec/42_stream_control.md R140).
-/
namespace Sys2Proof.Machine

/-- One step, atomic (R13; D19, notes/assumptions/15.md).
A configuration outside the loader's contract has no run (93_implementation_defined.md U6).
A halted block keeps all its state (60_exceptions.md R199).
Otherwise the stream is exhausted (R141), or the command at `PC` is fetched and runs, or it is badly framed and
raises `Framing(PC)` (R191, R205). -/
def step (s : State) : Host.Outcome State Fault Refusal :=
  if configValid s.cfg = false then .refused .badConfiguration
  else if s.status ≠ .running then .next s
  else if s.pc = s.cfg.maxOffset then exhaustionStep s
  else
    match fetch s with
    | .command i => exec i s
    | .badlyFramed => .next (raise (.framing s.pc) s)
    | .unreadable f => .fault f

/-- The state with one table row's bits stored at `PC`, so that the next step runs them. -/
def State.withFetchWord (s : State) (nbits w : Nat) : State :=
  placeAtPc (tableWordBytes nbits w) s

end Sys2Proof.Machine
end

