-- ==== Sys2Proof/Machine/Reference.lean ====
section
/-!
DEFINITION. The reference readings the spec gives for stating properties, which no step runs: parsing OUT into
frames (spec/30_encoding.md R89), the playback-side reconstruction (spec/43_frame_encoder.md R178), the 10-bit
registers of the wire protocol (spec/40_psg_write.md R109), and the frames of a Flush in closed form (R168)
(notes/assumptions/30.md).
-/
namespace Sys2Proof.Machine

/-- One frame of OUT (R84). -/
structure Frame where
  /-- The header byte. -/
  header : Byte
  /-- The payload bytes it announces. -/
  payload : List Byte
deriving DecidableEq, Repr

/-- The bytes of a frame. -/
def Frame.bytes (f : Frame) : List Byte := f.header :: f.payload

/-- The frames in a byte sequence (R89); `fuel` bounds how many.
`none` where the bytes end inside a frame. -/
def parseFrames : Nat → List Byte → Option (List Frame)
  | _, [] => some []
  | 0, _ :: _ => none
  | fuel + 1, h :: rest =>
    if rest.length < payloadLength h then none
    else
      match parseFrames fuel (rest.drop (payloadLength h)) with
      | none => none
      | some fs => some (⟨h, rest.take (payloadLength h)⟩ :: fs)

/-- The frames of an Output Buffer: a frame has at least one byte, so its length bounds how many there are. -/
def framesOf (out : List Byte) : Option (List Frame) := parseFrames out.length out

/-- `OUT` holds a whole number of frames (R31). -/
def wholeFrames (out : List Byte) : Bool := (framesOf out).isSome

/-- The playback side (R178): a Register State and a tick count. -/
structure Playback where
  /-- `S`. -/
  regs : Regs
  /-- `T`. -/
  ticks : Nat
deriving DecidableEq, Repr

/-- The next payload byte, if the flag is set, and the payload after it. -/
def takeIf (flag : Bool) (payload : List Byte) : Option Byte × List Byte :=
  match flag, payload with
  | true, b :: rest => (some b, rest)
  | _, _ => (none, payload)

/-- Low nibble of a payload byte, or what the register held. -/
def lowOr (b : Option Byte) (old : Nibble) : Nibble :=
  match b with
  | some v => v.extractLsb' 0 4
  | none => old

/-- High nibble of a payload byte, or what the register held. -/
def highOr (b : Option Byte) (old : Nibble) : Nibble :=
  match b with
  | some v => v.extractLsb' 4 4
  | none => old

/-- The delay field of a header: bits 7 to 6 (R85). -/
def headerDelay (h : Byte) : Nat := (h.extractLsb' 6 2).toNat

/-- Replay one frame (R178): registers first, then the delay. -/
def replayFrame (p : Playback) (f : Frame) : Playback :=
  let t0 := takeIf (f.header.getLsbD 0) f.payload
  let t1 := takeIf (f.header.getLsbD 1) t0.2
  let t2 := takeIf (f.header.getLsbD 2) t1.2
  let no := takeIf (f.header.getLsbD 3) t2.2
  let v01 := takeIf (f.header.getLsbD 4) no.2
  let v2n := takeIf (f.header.getLsbD 5) v01.2
  { regs :=
      { tone0 := t0.1.getD p.regs.tone0
        tone1 := t1.1.getD p.regs.tone1
        tone2 := t2.1.getD p.regs.tone2
        noise := lowOr no.1 p.regs.noise
        vol0 := lowOr v01.1 p.regs.vol0
        vol1 := highOr v01.1 p.regs.vol1
        vol2 := lowOr v2n.1 p.regs.vol2
        volN := highOr v2n.1 p.regs.volN }
    ticks := p.ticks + headerDelay f.header }

/-- Replay frames from the all-zero playback state (R178). -/
def replayFrames (fs : List Frame) : Playback := fs.foldl replayFrame ⟨Regs.zero, 0⟩

/-- Replay an Output Buffer, if it is whole frames. -/
def replayOut (out : List Byte) : Option Playback := (framesOf out).map replayFrames

/-- The registers as the wire protocol has them (R109): 10-bit periods and 4-bit attenuations as written. -/
structure WireRegs where
  /-- The period of tone 0. -/
  period0 : BitVec 10
  /-- The attenuation of tone 0. -/
  att0 : Nibble
  /-- The period of tone 1. -/
  period1 : BitVec 10
  /-- The attenuation of tone 1. -/
  att1 : Nibble
  /-- The period of tone 2. -/
  period2 : BitVec 10
  /-- The attenuation of tone 2. -/
  att2 : Nibble
  /-- The noise mode and rate. -/
  noise : Nibble
  /-- The attenuation of the noise channel. -/
  attN : Nibble
  /-- The register the last latch byte selected. -/
  latched : Reg
deriving DecidableEq, Repr

/-- `P[3:0] <- val` (R109). -/
def periodLow (p : BitVec 10) (val : Nibble) : BitVec 10 := p.extractLsb' 4 6 ++ val

/-- `P[9:4] <- hi` (R109). -/
def periodHigh (p : BitVec 10) (hi : BitVec 6) : BitVec 10 := hi ++ p.extractLsb' 0 4

/-- A latch byte on the wire registers (R109). -/
def WireRegs.latch (w : WireRegs) (r : Reg) (val : Nibble) : WireRegs :=
  match r with
  | .tone0 => { w with latched := r, period0 := periodLow w.period0 val }
  | .tone1 => { w with latched := r, period1 := periodLow w.period1 val }
  | .tone2 => { w with latched := r, period2 := periodLow w.period2 val }
  | .noise => { w with latched := r, noise := val }
  | .vol0 => { w with latched := r, att0 := val }
  | .vol1 => { w with latched := r, att1 := val }
  | .vol2 => { w with latched := r, att2 := val }
  | .volN => { w with latched := r, attN := val }

/-- A data byte on the wire registers (R109); on a 4-bit register nothing (R107). -/
def WireRegs.data (w : WireRegs) (hi : BitVec 6) : WireRegs :=
  match w.latched with
  | .tone0 => { w with period0 := periodHigh w.period0 hi }
  | .tone1 => { w with period1 := periodHigh w.period1 hi }
  | .tone2 => { w with period2 := periodHigh w.period2 hi }
  | .noise => w
  | .vol0 => w
  | .vol1 => w
  | .vol2 => w
  | .volN => w

/-- One command on the wire registers: only Register writes touch them. -/
def WireRegs.after (w : WireRegs) : Instr → WireRegs
  | .psgwL sel val => w.latch (selectReg sel) val
  | .psgwD _ hi => w.data hi
  | .skip1 _ => w
  | .waitN _ => w
  | .wait60 => w
  | .wait50 => w
  | .eod => w
  | .waitS _ => w
  | .unknown _ => w

/-- What the block stores for the wire registers (R21, R22, R23): period bits 9 to 2, the noise nibble as it
came, and 15 minus each attenuation. -/
def WireRegs.stored (w : WireRegs) : Regs where
  tone0 := w.period0.extractLsb' 2 8
  vol0 := 15#4 - w.att0
  tone1 := w.period1.extractLsb' 2 8
  vol1 := 15#4 - w.att1
  tone2 := w.period2.extractLsb' 2 8
  vol2 := 15#4 - w.att2
  noise := w.noise
  volN := 15#4 - w.attN

/-- The delay fields of a Flush of `ticks` ticks that is not stopped (the table of R168). -/
def delayFields (ticks : Nat) : List Nat :=
  if ticks = 0 then [0]
  else List.replicate (ticks / 3) 3 ++ (if ticks % 3 = 0 then [] else [ticks % 3])

/-- The bytes a Flush of `s` writes when it is not stopped: the first frame, and one byte for each further
delay field. -/
def flushBytes (s : State) : List Byte :=
  firstFrame s ++ (delayFields (pendingTicks s)).tail.flatMap continuationFrame

/-- There is room for all of them. -/
def flushFits (s : State) : Bool := fits (flushBytes s).length s

/-- What a Flush leaves when it is not stopped (R169 to R171). -/
def flushed (s : State) : State :=
  { s with
    out := s.out ++ flushBytes s
    prev := s.cur
    pendingDelay := s.pendingDelay % s.cfg.tickSamples }

/-- What the flush-before-write of a Register write leaves when it is not stopped (R101). -/
def flushedIfPending (s : State) : State := if s.pendingDelay = 0 then s else flushed s

end Sys2Proof.Machine
end

