-- ==== Sys2Proof/Machine/Report.lean ====
section
/-!
DEFINITION. What the host reads after a halt (spec/10_state.md R33, R35, R36; spec/00_scope.md R9, R15).
Each output is a function of the state.
-/
namespace Sys2Proof.Machine

/-- The numeric code of a STATUS (R33; D18, notes/assumptions/23.md). -/
def Status.code : Status → Nat
  | .running => 0
  | .doneEnd => 1
  | .doneExhausted => 2
  | .stoppedCapacity => 3
  | .faultFraming => 4

/-- `outcome_error` (R36): only the fatal class. -/
def outcomeError (s : State) : Bool := s.status == .faultFraming

/-- `truncated` (R36). -/
def truncatedReport (s : State) : Bool := s.status == .stoppedCapacity

/-- `bytes_produced` (R36). -/
def bytesProduced (s : State) : Nat := outLen s

/-- `unknown_count` (R35, R36). -/
def unknownCount (s : State) : Nat := s.unknownLog.length

/-- `OUT[i]` as the renderer may read it (R222, R226): nothing at or above `OUT_LEN`. -/
def outByte (s : State) (i : Nat) : Option Byte := s.out[i]?

/-- The observation of a run (R9). -/
def observe (s : State) : List Byte × Status × Nat × List LogEntry :=
  (s.out, s.status, s.errOffset, s.unknownLog)

end Sys2Proof.Machine
end

