-- ==== Sys2Proof/Safety.lean ====
section
/-!
DEFINITION. What a good state and a good run are: the invariant of spec/10_state.md R40, the loader's contract
(spec/70_reset_and_hazards.md R225), and the samples a step or a run waits (spec/43_frame_encoder.md R176).
-/
namespace Sys2Proof

open Sys2Proof.Machine

/-- The loader has placed a byte at every offset the block may read (R51, R225). -/
def loaded (s : State) : Prop :=
  ∀ off, s.cfg.startOffset ≤ off → off < s.cfg.maxOffset → ∃ b, Memory.read s.src off = some b

/-- The pass is over (R149, R199). -/
def halted (s : State) : Prop := s.status ≠ .running

/-- The structural invariant: R40 (a), (b), (e), (f), and the value of `ERR_OFFSET` outside a framing fault
(R34). -/
structure Inv (s : State) : Prop where
  /-- R40 (a), lower half. -/
  startLePc : s.cfg.startOffset ≤ s.pc
  /-- R40 (a), upper half. -/
  pcLeMax : s.pc ≤ s.cfg.maxOffset
  /-- R40 (b). -/
  outLeCapacity : s.out.length ≤ s.cfg.outCapacity
  /-- R40 (e). -/
  doneEmitted : s.status = .doneEnd ∨ s.status = .doneExhausted →
    s.prev = s.cur ∧ s.pendingDelay < s.cfg.tickSamples
  /-- R40 (f). -/
  framingOffset : s.status = .faultFraming → s.errOffset = s.pc ∧ s.pc < s.cfg.maxOffset
  /-- R34. -/
  noErrOffset : s.status ≠ .faultFraming → s.errOffset = 0

/-- `OUT` is whole frames, and replaying it gives the registers of `PREV` (R31, R178). -/
def replayIsPrev (s : State) : Prop := ∃ p, replayOut s.out = some p ∧ p.regs = s.prev

/-- Ticks that the frames of an Output Buffer carry, the sum of their delay fields; 0 where it is not whole
frames. -/
def emittedTicks (out : List Byte) : Nat :=
  match framesOf out with
  | some fs => (fs.map fun f => headerDelay f.header).sum
  | none => 0

/-- The samples a wait command stands for (R80). -/
def samplesOf : Instr → Nat
  | .waitN count => count.toNat
  | .wait60 => 735
  | .wait50 => 882
  | .waitS n => n.toNat + 1
  | .skip1 _ => 0
  | .psgwL _ _ => 0
  | .psgwD _ _ => 0
  | .eod => 0
  | .unknown _ => 0

/-- The samples that the wait command of the next step stands for, if the next step runs one. -/
def waitedBy (s : State) : Nat :=
  if s.status = .running ∧ s.pc ≠ s.cfg.maxOffset then
    match fetch s with
    | .command i => samplesOf i
    | .badlyFramed => 0
    | .unreadable _ => 0
  else 0

/-- The samples of all wait commands that the first `k` steps run. -/
def waitedOver : Nat → State → Nat
  | 0, _ => 0
  | k + 1, s =>
    match step s with
    | .next t => waitedBy s + waitedOver k t
    | .fault _ => 0
    | .refused _ => 0

/-- A command that invokes Flush when it runs in `s` (R160): a Register write with delay pending, or EOD. -/
def flushesIn (i : Instr) (s : State) : Prop :=
  match i with
  | .psgwL _ _ => s.pendingDelay ≠ 0
  | .psgwD _ _ => s.pendingDelay ≠ 0
  | .eod => True
  | .skip1 _ => False
  | .waitN _ => False
  | .wait60 => False
  | .wait50 => False
  | .waitS _ => False
  | .unknown _ => False

/-- The room a Register write needs for its flush-before-write (R101). -/
def roomToWrite (s : State) : Prop := s.pendingDelay = 0 ∨ flushFits s = true

end Sys2Proof
end

