-- ==== Sys2Proof/Certificates/Slice0/Obligations.lean ====
section
/-!
DEFINITION. The statements for the provers.
Every statement quantifies over the state, and with it over the configuration and the source space.
Where a statement rests on a decision or an inference of the spec, its docstring names the decision or the log entry.
-/
open Sys2Proof Sys2Proof.Machine

/-! ## Encoding (30_encoding.md) -/

/-- Decoding the bytes of a well-formed command, whatever follows them, gives the command back, for every proper
opcode map. The formats are R71 and R73; the six-bit field and the selector order in R73 are decisions D5 and D4
(notes/assumptions/7.md, 8.md). That a proper map has a short-wait base with low nibble 0, on which WAITS rests, is
notes/assumptions/6.md, and that the syntax keeps the bits the block ignores is 26.md. -/
def Obligations.DecodeOfEncodeIsTheCommand : Prop :=
  ∀ (m : OpMap) (i : Instr) (rest : List Byte),
    m.wf = true → i.wf m = true → decode m (encode m i ++ rest) = .command i rest

/-- What the decoder accepts is the encoding of the well-formed command it answers: no two byte sequences decode
to one command, and no bit of a command's bytes is dropped. This rests on the model's choice to keep in the syntax the
bits that the block ignores, bit 6 of PSGW.D and the operand byte of SKIP1 (notes/assumptions/26.md), on the operand
fields of decisions D4 and D5 (notes/assumptions/7.md, 8.md) and on what a proper map is (notes/assumptions/6.md). -/
def Obligations.DecodedBytesAreTheEncoding : Prop :=
  ∀ (m : OpMap) (bytes : List Byte) (i : Instr) (rest : List Byte),
    m.wf = true → decode m bytes = .command i rest →
      i.wf m = true ∧ bytes = encode m i ++ rest

/-- The decoder rejects only where the bytes end before the command that their opcode byte claims, and what it
accepts has the length that the opcode byte alone gives (R78, R83). -/
def Obligations.DecoderRejectsOnlyShortInput : Prop :=
  ∀ (m : OpMap) (bytes : List Byte),
    ((∃ e, decode m bytes = .rejected e) ↔
      bytes = [] ∨ ∃ op rest, bytes = op :: rest ∧ bytes.length < commandLength m op) ∧
    (∀ op tail i rest, bytes = op :: tail → decode m bytes = .command i rest →
      i.length = commandLength m op ∧ rest = bytes.drop (commandLength m op))

/-- Each class has exactly the opcode bytes its row gives it, so every byte value has exactly one class and the
class is a function of the opcode byte alone (the map of 30_encoding.md section 2, with its parameters instead of
numbers). That a proper map has a short-wait base with low nibble 0 is the model's inference, notes/assumptions/6.md. -/
def Obligations.EveryOpcodeByteHasItsOneClass : Prop :=
  ∀ (m : OpMap) (op : Byte), m.wf = true →
    (classify m op = .skipSecondaryByte ↔ op = m.skip1) ∧
    (classify m op = .registerWrite ↔ op = m.psgWrite) ∧
    (classify m op = .waitSamples ↔ op = m.waitN) ∧
    (classify m op = .wait60 ↔ op = m.wait60) ∧
    (classify m op = .wait50 ↔ op = m.wait50) ∧
    (classify m op = .endOfData ↔ op = m.endOfData) ∧
    (classify m op = .waitShort ↔
      m.waitShortBase.toNat ≤ op.toNat ∧ op.toNat ≤ m.waitShortBase.toNat + 15) ∧
    (classify m op = .unknown ↔ m.recognises op = false)

/-- Under the opcode numbers of decision D1 (notes/assumptions/5.md) the unknown bytes are the five ranges of R77,
and there are 234 of them. -/
def Obligations.UnknownOpcodesAreTheFiveRanges : Prop :=
  (∀ op : Byte, classify OpMap.decided op = .unknown ↔
    op.toNat ≤ 0x4E ∨ (0x51 ≤ op.toNat ∧ op.toNat ≤ 0x60) ∨ op.toNat = 0x64 ∨ op.toNat = 0x65 ∨
      (0x67 ≤ op.toNat ∧ op.toNat ≤ 0x6F) ∨ 0x80 ≤ op.toNat) ∧
  ((List.range 256).filter fun n => classify OpMap.decided (BitVec.ofNat 8 n) = .unknown).length = 234

/-- Bytes written out from R71 and R73 decode to the commands they stand for (the worked decodes of R81, under the
opcode numbers of decision D1, notes/assumptions/5.md). The selector bits are decision D4 (notes/assumptions/7.md),
the six-bit field of PSGW.D is D5 (8.md), and that the syntax keeps its bit 6 and the operand byte of SKIP1 is
26.md. -/
def Obligations.WrittenOutBytesDecode : Prop :=
  decode OpMap.decided [0x50#8, 0b10000101#8] = .command (.psgwL 0#3 5#4) [] ∧
  decode OpMap.decided [0x50#8, 0b11100100#8] = .command (.psgwL 6#3 4#4) [] ∧
  decode OpMap.decided [0x50#8, 0b01111111#8] = .command (.psgwD 1#1 0x3F#6) [] ∧
  decode OpMap.decided [0x61#8, 0xDF#8, 0x02#8] = .command (.waitN 735#16) [] ∧
  decode OpMap.decided [0x70#8] = .command (.waitS 0#4) [] ∧
  decode OpMap.decided [0x4F#8, 0xFF#8] = .command (.skip1 0xFF#8) [] ∧
  decode OpMap.decided [0x66#8] = .command .eod [] ∧
  decode OpMap.decided [0xAA#8] = .command (.unknown 0xAA#8) []

/-! ## The step (42_stream_control.md, 60_exceptions.md) -/

/-- Where the bytes at `PC` decode to a command, the step is that command's meaning, with nothing added. The operand
byte of SKIP1 makes no difference to either (notes/assumptions/26.md). -/
def Obligations.StepRunsTheDecodedCommand : Prop :=
  ∀ (s : State) (n : Nat) (bytes : List Byte) (i : Instr),
    configValid s.cfg = true → s.status = .running →
    memRead s s.pc n = some bytes → decode s.cfg.ops bytes = .command i [] →
      step s = exec i s

/-- A table row's bits, placed at `PC`, are what the next step runs. The placing is the model's stand-in for the
loader (notes/assumptions/3.md), and it sets the opcode numbers of decision D1 (5.md). -/
def Obligations.PlacedTableWordRunsNext : Prop :=
  ∀ (s : State) (nbits w : Nat), 0 < s.cfg.tickSamples →
    ∃ i, decodeTableWord nbits w = some i ∧
      step (s.withFetchWord nbits w) = exec i (s.withFetchWord nbits w)

/-- At `PC = MAX_OFFSET` the step is the exhaustion step: the final Flush and the halt where there is room, and a
capacity stop that keeps `PC`, `CUR` and `LATCH` where there is none, which is decision D14 (notes/assumptions/12.md).
That exhaustion flushes and is no fault is decision D15 (notes/assumptions/18.md). That its Flush writes a frame even
with nothing to say, and so needs room for one, is decision D12 (notes/assumptions/16.md). -/
def Obligations.ExhaustionFlushesAndHalts : Prop :=
  ∀ s : State, configValid s.cfg = true → s.status = .running → s.pc = s.cfg.maxOffset →
    (flushFits s = true → step s = .next { flushed s with status := .doneExhausted }) ∧
    (flushFits s = false → ∃ t, step s = .next t ∧ t.status = .stoppedCapacity ∧
      t.pc = s.pc ∧ t.cur = s.cur ∧ t.latch = s.latch)

/-- A command that its opcode byte makes too long for the bytes below `MAX_OFFSET` raises `Framing(PC)` and changes
nothing else, before its form is known. What is reported and kept is decision D16 (notes/assumptions/19.md). -/
def Obligations.BadlyFramedStepRaisesFraming : Prop :=
  ∀ (s : State) (op : Byte), configValid s.cfg = true → s.status = .running →
    s.cfg.startOffset ≤ s.pc → s.pc < s.cfg.maxOffset → Memory.read s.src s.pc = some op →
    s.cfg.maxOffset < s.pc + commandLength s.cfg.ops op →
      step s = .next { s with errOffset := s.pc, status := .faultFraming }

/-- A halted block keeps all its state for any number of steps (decision D27, notes/assumptions/28.md). That a halted
state steps to itself, and does not stop the model, is notes/assumptions/9.md. -/
def Obligations.HaltedStatesAreAbsorbing : Prop :=
  ∀ (k : Nat) (s : State), configValid s.cfg = true → halted s →
    Host.Core.run Sys2Proof.core k s = .next s

/-- A step is refused exactly when `START_OFFSET <= MAX_OFFSET <= SRC_LEN` fails, or `TICK_SAMPLES` is 0, or the
opcode map is not proper: two opcode parameters are equal, one lies in the short-wait family, or the base of that
family has a low nibble other than 0. The first condition is the loader's contract (D20, U6). That the other two are
refused as well, and the low nibble itself, is the model's choice, notes/assumptions/6.md. -/
def Obligations.OnlyBadConfigurationsAreRefused : Prop :=
  ∀ s : State, (∃ r, step s = .refused r) ↔
    ¬(s.cfg.startOffset ≤ s.cfg.maxOffset ∧ s.cfg.maxOffset ≤ s.cfg.srcLen ∧
      0 < s.cfg.tickSamples ∧ s.cfg.ops.singles.Nodup ∧
      (∀ op ∈ s.cfg.ops.singles, ¬(s.cfg.ops.waitShortBase.toNat ≤ op.toNat ∧
        op.toNat ≤ s.cfg.ops.waitShortBase.toNat + 15)) ∧
      s.cfg.ops.waitShortBase.toNat % 16 = 0)

/-- With a proper configuration, `PC` in bounds and the loader's bytes in place, every step has a next state: no
byte sequence is undefined. That a halted state, of which the spec says that it performs no step, steps to itself is
the model's choice (notes/assumptions/9.md), and so is that a badly framed command, which the spec calls a fault of
the run, has a next state with `STATUS = FAULT_FRAMING` (notes/assumptions/19.md). -/
def Obligations.LoadedStatesAlwaysStep : Prop :=
  ∀ s : State, configValid s.cfg = true → s.cfg.startOffset ≤ s.pc → s.pc ≤ s.cfg.maxOffset →
    loaded s → ∃ t, step s = .next t

/-- Each step of a running pass halts, or moves `PC` forward by 1, 2 or 3 and not past `MAX_OFFSET`. Where `PC` stands
after a halt is decision D14 for a capacity stop, D16 for `Framing`, D15 for exhaustion and D22 for EOD
(notes/assumptions/12.md, 19.md, 18.md, 21.md). -/
def Obligations.EachStepHaltsOrAdvances : Prop :=
  ∀ s t : State, s.status = .running → s.pc ≤ s.cfg.maxOffset → step s = .next t →
    (halted t ∧ s.pc ≤ t.pc ∧ t.pc ≤ s.cfg.maxOffset) ∨
    (t.status = .running ∧ s.pc < t.pc ∧ t.pc ≤ s.pc + 3 ∧ t.pc ≤ s.cfg.maxOffset)

/-- Every pass over a loaded stream halts within `MAX_OFFSET - START_OFFSET + 1` steps (the bound of 00_scope.md
section 8). That exhaustion is a step is decision D15 (notes/assumptions/18.md); that a halted state steps to itself
and that `Framing` is a next state are the model's choices (notes/assumptions/9.md, 19.md). -/
def Obligations.EveryPassHalts : Prop :=
  ∀ (cfg : Config) (src : Memory), configValid cfg = true → loaded (State.resetWith cfg src) →
    ∃ t : State,
      Host.Core.run Sys2Proof.core (cfg.maxOffset - cfg.startOffset + 1) (State.resetWith cfg src)
        = .next t ∧ halted t

/-! ## Invariants -/

/-- Reset gives every piece of state its listed value, from any earlier state. The zero of `LATCH` is decision D7 and
the zero of `PENDING_DELAY` D8 (notes/assumptions/10.md). The values of `STATUS`, `ERR_OFFSET` and `UNKNOWN_LOG` rest
on decisions D18, D16 and D24 (23.md, 19.md, 20.md), and that reset may come in any state on D27 (28.md). -/
def Obligations.ResetLeavesTheListedValues : Prop :=
  ∀ (cfg : Config) (src : Memory) (s : State),
    let t := applyReset cfg src s
    t.cfg = cfg ∧ t.src = src ∧ t.pc = cfg.startOffset ∧ t.cur = ⟨0, 0, 0, 0, 0, 0, 0, 0⟩ ∧
    t.prev = ⟨0, 0, 0, 0, 0, 0, 0, 0⟩ ∧ t.latch = 0#3 ∧ t.pendingDelay = 0 ∧ t.out = [] ∧
    t.status = .running ∧ t.errOffset = 0 ∧ t.unknownLog = []

/-- The invariant holds after reset into any proper configuration, and the reset state's own source space has the
canonical form. That this source space is empty is the model's choice (notes/assumptions/2.md). -/
def Obligations.ResetHasTheInvariant : Prop :=
  (∀ (cfg : Config) (src : Memory), configValid cfg = true →
    Inv (State.resetWith cfg src) ∧ replayIsPrev (State.resetWith cfg src)) ∧
  Memory.wf State.reset.src

/-- Every step keeps the structural invariant (R40 (a), (b), (e), (f); R34), from every state that has it. The value
of `ERR_OFFSET` is decision D16, and where `PC` stands after a capacity stop D14 (notes/assumptions/19.md, 12.md).
That a pass which ends by exhaustion has emitted everything is decision D15, and where `PC` stands after EOD D22
(18.md, 21.md). -/
def Obligations.StepKeepsTheInvariant : Prop :=
  ∀ s t : State, Inv s → step s = .next t → Inv t

/-- Every step keeps `OUT` whole frames whose replay is `PREV`, from every state where it is so. The header layout
that replay reads is decision D9, and what `PREV` is after a capacity stop D14 (notes/assumptions/11.md, 12.md). -/
def Obligations.StepKeepsReplayEqualToPrev : Prop :=
  ∀ s t : State, replayIsPrev s → step s = .next t → replayIsPrev t

/-- When a pass ends with `DONE_END` or `DONE_EXHAUSTED`, replaying its `OUT` recovers `CUR` (R179, which the spec
derives). For `DONE_EXHAUSTED` this rests on decision D15, that exhaustion performs the final Flush
(notes/assumptions/18.md). The header layout that replay reads is decision D9 (11.md), the replay is the reference
reading of 30.md, and the steps of a halted state are 9.md. -/
def Obligations.FinishedPassReplaysToCur : Prop :=
  ∀ (cfg : Config) (src : Memory) (k : Nat) (t : State),
    Host.Core.run Sys2Proof.core k (State.resetWith cfg src) = .next t →
    t.status = .doneEnd ∨ t.status = .doneExhausted →
      ∃ p, replayOut t.out = some p ∧ p.regs = t.cur

/-- Over any number of steps from any state with whole frames in `OUT`, the ticks emitted times the tick length plus
the samples pending grow by exactly the samples of the wait commands run. What is pending after a capacity stop is
decision D14 (notes/assumptions/12.md), and the steps of a halted state are notes/assumptions/9.md. The 882 samples of
a WAIT50 are decision D3 (14.md). -/
def Obligations.RunsConserveDelay : Prop :=
  ∀ (k : Nat) (s t : State), wholeFrames s.out = true →
    Host.Core.run Sys2Proof.core k s = .next t →
      wholeFrames t.out = true ∧
      emittedTicks t.out * s.cfg.tickSamples + t.pendingDelay
        = emittedTicks s.out * s.cfg.tickSamples + s.pendingDelay + waitedOver k s

/-- A run's `OUT` is a prefix, cut at a frame boundary, of the `OUT` that the same stream gives with more room, and a
run that was not stopped for want of room is the same run. When the capacity stop falls is decision D13
(notes/assumptions/17.md), and what it leaves decision D14 (notes/assumptions/12.md). The steps of a halted state are
9.md. -/
def Obligations.MoreRoomOnlyExtendsTheOutput : Prop :=
  ∀ (k : Nat) (s t u : State) (room : Nat), s.cfg.outCapacity ≤ room →
    Host.Core.run Sys2Proof.core k s = .next t →
    Host.Core.run Sys2Proof.core k { s with cfg := { s.cfg with outCapacity := room } } = .next u →
      t.out <+: u.out ∧ (wholeFrames s.out = true → wholeFrames t.out = true) ∧
      (t.status ≠ .stoppedCapacity →
        u = { t with cfg := { t.cfg with outCapacity := room } })

/-! ## Whole-machine rules -/

/-- No step changes the configuration or the source space, so the source keeps its canonical form and every fetch at
an offset returns the same byte for the whole pass. That they stand in State at all is the model's choice
(notes/assumptions/1.md). -/
def Obligations.StepKeepsConfigurationAndSource : Prop :=
  ∀ s t : State, step s = .next t →
    t.cfg = s.cfg ∧ t.src = s.src ∧ (Memory.wf s.src → Memory.wf t.src)

/-- `OUT` only grows, stays within its capacity, and its bytes never influence what a step does. That `OUT` is the
list of its `OUT_LEN` bytes is notes/assumptions/25.md. -/
def Obligations.OutputIsAppendOnlyAndNeverRead : Prop :=
  ∀ s t : State, step s = .next t →
    s.out <+: t.out ∧
    (s.out.length ≤ s.cfg.outCapacity → t.out.length ≤ s.cfg.outCapacity) ∧
    ∀ o : List Byte, o.length = s.out.length →
      step { s with out := o } = .next { t with out := o ++ t.out.drop s.out.length }

/-- Source bytes below `START_OFFSET` and at or above `MAX_OFFSET` never influence a step. -/
def Obligations.BytesOutsideTheBoundsAreNeverRead : Prop :=
  ∀ (s t : State) (other : Memory),
    (∀ off, s.cfg.startOffset ≤ off → off < s.cfg.maxOffset →
      Memory.read other off = Memory.read s.src off) →
    step s = .next t → step { s with src := other } = .next { t with src := other }

/-- A step depends on no source bytes but the opcode byte at `PC` and the operand bytes that its command reads: those
below `PC` plus its length, and for SKIP1, whose operand byte is skipped, none. At `MAX_OFFSET` it depends on none.
That a step puts 0 for the byte SKIP1 does not read is notes/assumptions/26.md. -/
def Obligations.StepReadsOnlyItsListedBytes : Prop :=
  (∀ (s t : State) (other : Memory) (op : Byte), Memory.read s.src s.pc = some op →
    (∀ off, s.pc ≤ off →
      off < s.pc + (if op = s.cfg.ops.skip1 then 1 else commandLength s.cfg.ops op) →
        Memory.read other off = Memory.read s.src off) →
    step s = .next t → step { s with src := other } = .next { t with src := other }) ∧
  (∀ (s t : State) (other : Memory), s.pc = s.cfg.maxOffset →
    step s = .next t → step { s with src := other } = .next { t with src := other })

/-- `UNKNOWN_LOG` only grows and never influences what a step does. That there is a log and not only a count is
decision D24 (notes/assumptions/20.md). -/
def Obligations.UnknownLogIsNeverRead : Prop :=
  ∀ (s t : State) (log : List LogEntry), step s = .next t →
    s.unknownLog <+: t.unknownLog ∧
    step { s with unknownLog := log }
      = .next { t with unknownLog := log ++ t.unknownLog.drop s.unknownLog.length }

/-- Which command raises which condition, in both directions (the table of R204). The order of the tests is decision
D16, when a frame does not fit D13, and the flush test in samples D11, and that a Flush needs room even with nothing
to say D12 (notes/assumptions/16.md, 17.md, 19.md). -/
def Obligations.ConditionsEachCommandRaises : Prop :=
  ∀ (i : Instr) (s t : State), 0 < s.cfg.tickSamples → s.status = .running →
    exec i s = .next t →
      (t.status = .faultFraming ↔ 1 < i.length ∧ s.cfg.maxOffset < s.pc + i.length) ∧
      (t.status = .stoppedCapacity ↔
        (i.length = 1 ∨ s.pc + i.length ≤ s.cfg.maxOffset) ∧ flushesIn i s ∧ flushFits s = false) ∧
      (t.status = .doneEnd ↔ i = .eod ∧ flushFits s = true) ∧
      t.status ≠ .doneExhausted ∧
      (t.unknownLog ≠ s.unknownLog ↔ ∃ op, i = .unknown op)

/-- Only a Register write changes `CUR` or `LATCH`, and only a command that invokes Flush changes `OUT` or `PREV`. For a
command that halts the pass this rests on decisions D14 and D16 (notes/assumptions/12.md, 19.md). -/
def Obligations.WritersOfTheRegisterFilesAndOutput : Prop :=
  ∀ (i : Instr) (s t : State), exec i s = .next t →
    ((∀ sel val, i ≠ .psgwL sel val) → t.latch = s.latch ∧
      ((∀ b hi, i ≠ .psgwD b hi) → t.cur = s.cur)) ∧
    (¬flushesIn i s → t.out = s.out ∧ t.prev = s.prev)

/-! ## The Frame Encoder (43_frame_encoder.md) -/

/-- The six change flags are the comparisons of `CUR` and `PREV`, a volume pair being one flag, and a Flush writes into
its first header the flags of `CUR` and `PREV` as they are when it starts. The header's layout is decision D9
(notes/assumptions/11.md). -/
def Obligations.ChangeFlagsCompareStoredValues : Prop :=
  (∀ cur prev : Regs,
    ((changeFlags cur prev).tone0 = true ↔ cur.tone0 ≠ prev.tone0) ∧
    ((changeFlags cur prev).tone1 = true ↔ cur.tone1 ≠ prev.tone1) ∧
    ((changeFlags cur prev).tone2 = true ↔ cur.tone2 ≠ prev.tone2) ∧
    ((changeFlags cur prev).noise = true ↔ cur.noise ≠ prev.noise) ∧
    ((changeFlags cur prev).vol01 = true ↔ cur.vol0 ≠ prev.vol0 ∨ cur.vol1 ≠ prev.vol1) ∧
    ((changeFlags cur prev).vol2n = true ↔ cur.vol2 ≠ prev.vol2 ∨ cur.volN ≠ prev.volN)) ∧
  (∀ s t : State, flush s = .ok t →
    ∃ (d : Nat) (tail : List Byte), d < 4 ∧
      t.out = s.out ++ headerByte d (changeFlags s.cur s.prev) :: tail)

/-- A header carries its delay field and its six flags in their places, and announces exactly the payload that
follows it. The places inside the two flag groups are decision D9 (notes/assumptions/11.md). -/
def Obligations.HeaderAnnouncesItsPayload : Prop :=
  ∀ (d : Nat) (f : ChangeFlags) (cur : Regs), d < 4 →
    let h := headerByte d f
    headerDelay h = d ∧ payloadLength h = (payloadBytes f cur).length ∧
    h.getLsbD 0 = f.tone0 ∧ h.getLsbD 1 = f.tone1 ∧ h.getLsbD 2 = f.tone2 ∧
    h.getLsbD 3 = f.noise ∧ h.getLsbD 4 = f.vol01 ∧ h.getLsbD 5 = f.vol2n

/-- With room for all its frames, Flush leaves exactly the closed form: the first frame, one byte for each further
delay field of the table of R168, `PREV = CUR`, and the remainder pending. That the first frame is written even with
nothing to say is decision D12 (notes/assumptions/16.md); what the bytes of the first frame are is not said here. -/
def Obligations.FlushIsItsClosedForm : Prop :=
  ∀ s : State, 0 < s.cfg.tickSamples → flushFits s = true → flush s = .ok (flushed s)

/-- Without room for all its frames, Flush is truncated: at the first frame nothing has changed, and at a continuation
the committed frames stand, the buffer is exactly full and whole ticks are still pending. When a frame does not fit is
decision D13 (notes/assumptions/17.md), the state left D14 (12.md), and that even a first frame with nothing to say
needs room D12 (16.md). -/
def Obligations.FlushTruncatesAtAFrameBoundary : Prop :=
  ∀ s : State, 0 < s.cfg.tickSamples → flushFits s = false →
    ∃ t, flush s = .truncated t ∧
      (fits (firstFrame s).length s = false → t = s) ∧
      (fits (firstFrame s).length s = true → ∃ n,
        t = { s with
              out := s.out ++ firstFrame s ++ List.replicate n 0xC0#8
              prev := s.cur
              pendingDelay := s.pendingDelay - 3 * (n + 1) * s.cfg.tickSamples } ∧
        t.out.length = s.cfg.outCapacity ∧ s.cfg.tickSamples ≤ t.pendingDelay ∧
        3 * (n + 1) * s.cfg.tickSamples ≤ s.pendingDelay)

/-- Flush writes nothing but `OUT`, `PREV` and `PENDING_DELAY`, and what it writes depends on nothing but `CUR`,
`PREV`, `PENDING_DELAY`, `OUT_LEN` and its two parameters. -/
def Obligations.FlushReadsAndWritesItsOwnState : Prop :=
  (∀ s t : State, flush s = .ok t ∨ flush s = .truncated t →
    t.cur = s.cur ∧ t.latch = s.latch ∧ t.pc = s.pc ∧ t.unknownLog = s.unknownLog ∧
    t.errOffset = s.errOffset ∧ t.status = s.status ∧ t.cfg = s.cfg ∧ t.src = s.src ∧
    s.out <+: t.out) ∧
  (∀ s u : State, u.cur = s.cur → u.prev = s.prev → u.pendingDelay = s.pendingDelay →
    u.out.length = s.out.length → u.cfg.tickSamples = s.cfg.tickSamples →
    u.cfg.outCapacity = s.cfg.outCapacity →
      (∀ t, flush s = .ok t → ∃ v, flush u = .ok v ∧ v.prev = t.prev ∧
        v.pendingDelay = t.pendingDelay ∧
        v.out.drop u.out.length = t.out.drop s.out.length) ∧
      (∀ t, flush s = .truncated t → ∃ v, flush u = .truncated v ∧ v.prev = t.prev ∧
        v.pendingDelay = t.pendingDelay ∧
        v.out.drop u.out.length = t.out.drop s.out.length))

/-- `PREV` becomes `CUR` when the first frame is committed, and keeps its value when that frame does not fit. -/
def Obligations.PrevFollowsTheFirstFrame : Prop :=
  ∀ s t : State,
    (flush s = .ok t → fits (firstFrame s).length s = true ∧ t.prev = s.cur ∧ t.cur = s.cur) ∧
    (flush s = .truncated t →
      (fits (firstFrame s).length s = true → t.prev = s.cur ∧ t.cur = s.cur) ∧
      (fits (firstFrame s).length s = false → t.prev = s.prev ∧ t.out = s.out))

/-- A Flush that is not stopped turns whole ticks into delay fields and keeps the remainder: the first frame's field
is the tick count clamped to 3, the fields of all its frames sum to the tick count, and the samples left are the
remainder. That there is a first frame even with no tick and no change is decision D12 (notes/assumptions/16.md), and
the reading of the bytes as frames is 30.md. -/
def Obligations.FlushTurnsSamplesIntoTicks : Prop :=
  ∀ s t : State, 0 < s.cfg.tickSamples → flush s = .ok t →
    t.pendingDelay = s.pendingDelay % s.cfg.tickSamples ∧
    ∃ (h : Byte) (tail : List Byte), t.out = s.out ++ h :: tail ∧
      headerDelay h = min (s.pendingDelay / s.cfg.tickSamples) 3 ∧
      wholeFrames (h :: tail) = true ∧
      emittedTicks (h :: tail) = s.pendingDelay / s.cfg.tickSamples

/-- After a Flush, a second one with `CUR` unchanged writes header-only frames, whatever delay has accrued, and the
single byte 00 if none has, which is decision D12 (notes/assumptions/16.md). -/
def Obligations.SecondFlushWritesNoPayload : Prop :=
  ∀ s t : State, 0 < s.cfg.tickSamples → flush s = .ok t →
    (∀ u, flush t = .ok u → u.out = t.out ++ [0x00#8]) ∧
    (∀ (delay : Nat) (u : State), flush { t with pendingDelay := delay } = .ok u →
      ∃ hs : List Byte, hs ≠ [] ∧ u.out = t.out ++ hs ∧ ∀ h ∈ hs, h.extractLsb' 0 6 = 0#6)

/-- A wait of exactly 4 ticks with no register changed makes exactly the two frames C0 and 40. -/
def Obligations.FourTicksMakeTwoFrames : Prop :=
  ∀ s : State, 0 < s.cfg.tickSamples → s.cur = s.prev → s.pendingDelay = 4 * s.cfg.tickSamples →
    s.out.length + 2 ≤ s.cfg.outCapacity →
      flush s = .ok { s with out := s.out ++ [0xC0#8, 0x40#8], pendingDelay := 0 }

/-! ## Wait commands (41_wait.md) -/

/-- Every wait adds its samples to `PENDING_DELAY`, moves `PC` past itself and does nothing else. The 882 of WAIT50 is
decision D3 (notes/assumptions/14.md), and that a WAITN of 0 is legal D23 (notes/assumptions/22.md). -/
def Obligations.WaitsAddTheirSamples : Prop :=
  (∀ s : State, exec .wait60 s
    = .next { s with pendingDelay := s.pendingDelay + 735, pc := s.pc + 1 }) ∧
  (∀ s : State, exec .wait50 s
    = .next { s with pendingDelay := s.pendingDelay + 882, pc := s.pc + 1 }) ∧
  (∀ (n : Nibble) (s : State), exec (.waitS n) s
    = .next { s with pendingDelay := s.pendingDelay + (n.toNat + 1), pc := s.pc + 1 }) ∧
  (∀ (count : BitVec 16) (s : State), s.pc + 3 ≤ s.cfg.maxOffset → exec (.waitN count) s
    = .next { s with pendingDelay := s.pendingDelay + count.toNat, pc := s.pc + 3 })

/-- WAITN takes its count from the two bytes after its opcode byte, the low byte first. -/
def Obligations.WaitNCountIsLittleEndian : Prop :=
  ∀ (s : State) (lo hi : Byte), configValid s.cfg = true → s.status = .running →
    s.cfg.startOffset ≤ s.pc → s.pc + 3 ≤ s.cfg.maxOffset →
    Memory.read s.src s.pc = some s.cfg.ops.waitN →
    Memory.read s.src (s.pc + 1) = some lo → Memory.read s.src (s.pc + 2) = some hi →
      step s = .next { s with
        pendingDelay := s.pendingDelay + (lo.toNat + 256 * hi.toNat), pc := s.pc + 3 }

/-! ## Stream control (42_stream_control.md) -/

/-- SKIP1 moves `PC` past its operand byte, whatever the byte, and does nothing else, even with delay pending. -/
def Obligations.SkipMovesOnlyPc : Prop :=
  ∀ (b : Byte) (s : State), s.pc + 2 ≤ s.cfg.maxOffset →
    exec (.skip1 b) s = .next { s with pc := s.pc + 2 }

/-- SKIP1 completes from its opcode byte alone: the bound test covers its operand byte, but whether the loader placed
that byte, and which, makes no difference. That a step puts 0 for that byte is notes/assumptions/26.md. -/
def Obligations.SkipNeedsNoOperandByte : Prop :=
  ∀ s : State, configValid s.cfg = true → s.status = .running →
    s.cfg.startOffset ≤ s.pc → s.pc + 2 ≤ s.cfg.maxOffset →
    Memory.read s.src s.pc = some s.cfg.ops.skip1 →
      step s = .next { s with pc := s.pc + 2 }

/-- UNKNOWN records its offset and opcode byte and consumes one byte. The one byte and the form of the record are
decisions D17 and D24 (notes/assumptions/20.md). -/
def Obligations.UnknownIsRecordedAndSkipped : Prop :=
  ∀ (op : Byte) (s : State), exec (.unknown op) s
    = .next { s with unknownLog := s.unknownLog ++ [(s.pc, op)], pc := s.pc + 1 }

/-- EOD flushes unconditionally and halts with `DONE_END`. The advance of `PC` is decision D22
(notes/assumptions/21.md), and that its Flush writes a frame even with nothing to say is D12 (16.md). -/
def Obligations.EodFlushesAndHalts : Prop :=
  ∀ s : State, 0 < s.cfg.tickSamples → flushFits s = true →
    exec .eod s = .next { flushed s with pc := s.pc + 1, status := .doneEnd }

/-- An EOD whose Flush does not fit stops for capacity and leaves `PC`, `CUR` and `LATCH` (decision D14,
notes/assumptions/12.md). When a frame does not fit is D13 (17.md), and that even a frame with nothing to say needs
room D12 (16.md). -/
def Obligations.EodWithoutRoomStops : Prop :=
  ∀ s : State, 0 < s.cfg.tickSamples → flushFits s = false →
    ∃ t, exec .eod s = .next t ∧ t.status = .stoppedCapacity ∧ t.pc = s.pc ∧ t.cur = s.cur ∧
      t.latch = s.latch ∧ t.unknownLog = s.unknownLog ∧ t.errOffset = s.errOffset

/-- A command of more than one byte that extends past `MAX_OFFSET` writes `ERR_OFFSET` and `STATUS` and nothing
else: no Flush, even with delay pending (decision D16, notes/assumptions/19.md). -/
def Obligations.BadlyFramedCommandsOnlyFault : Prop :=
  ∀ (i : Instr) (s : State), 1 < i.length → s.cfg.maxOffset < s.pc + i.length →
    exec i s = .next { s with errOffset := s.pc, status := .faultFraming }

/-! ## Register writes (40_psg_write.md) -/

/-- A latch byte for a tone register stores the top two bits of its nibble in bits 1 and 0 of that tone, keeps bits
7 to 2, discards the nibble's low bits, and sets the Latch; before that the pending delay is flushed. The selector
map is decision D4 (notes/assumptions/7.md), and the flush test in samples D11 (notes/assumptions/16.md). -/
def Obligations.LatchByteWritesToneLowBits : Prop :=
  (∀ (val : Nibble) (s : State), 0 < s.cfg.tickSamples → s.pc + 2 ≤ s.cfg.maxOffset →
    roomToWrite s →
    exec (.psgwL 0#3 val) s = .next { flushedIfPending s with
      latch := 0#3, pc := s.pc + 2
      cur := { s.cur with tone0 := (s.cur.tone0 &&& 0xFC#8) ||| (val >>> 2).setWidth 8 } } ∧
    exec (.psgwL 2#3 val) s = .next { flushedIfPending s with
      latch := 2#3, pc := s.pc + 2
      cur := { s.cur with tone1 := (s.cur.tone1 &&& 0xFC#8) ||| (val >>> 2).setWidth 8 } } ∧
    exec (.psgwL 4#3 val) s = .next { flushedIfPending s with
      latch := 4#3, pc := s.pc + 2
      cur := { s.cur with tone2 := (s.cur.tone2 &&& 0xFC#8) ||| (val >>> 2).setWidth 8 } }) ∧
  (∀ (old : Byte) (val : Nibble),
    ((old &&& 0xFC#8) ||| (val >>> 2).setWidth 8).extractLsb' 0 2 = val.extractLsb' 2 2 ∧
    ((old &&& 0xFC#8) ||| (val >>> 2).setWidth 8).extractLsb' 2 6 = old.extractLsb' 2 6)

/-- A latch byte for the noise register stores its nibble as it comes and sets the Latch; before that the pending
delay is flushed. The selector map is decision D4 (notes/assumptions/7.md), and the flush test in samples D11
(16.md). -/
def Obligations.LatchByteWritesNoise : Prop :=
  ∀ (val : Nibble) (s : State), 0 < s.cfg.tickSamples → s.pc + 2 ≤ s.cfg.maxOffset →
    roomToWrite s →
      exec (.psgwL 6#3 val) s = .next { flushedIfPending s with
        latch := 6#3, pc := s.pc + 2, cur := { s.cur with noise := val } }

/-- A latch byte for a volume register stores 15 minus its nibble and sets the Latch; before that the pending delay is
flushed. The selector map is decision D4 (notes/assumptions/7.md), and the flush test in samples D11 (16.md). -/
def Obligations.LatchByteWritesInvertedVolume : Prop :=
  ∀ (val : Nibble) (s : State), 0 < s.cfg.tickSamples → s.pc + 2 ≤ s.cfg.maxOffset →
    roomToWrite s →
      exec (.psgwL 1#3 val) s = .next { flushedIfPending s with
        latch := 1#3, pc := s.pc + 2
        cur := { s.cur with vol0 := BitVec.ofNat 4 (15 - val.toNat) } } ∧
      exec (.psgwL 3#3 val) s = .next { flushedIfPending s with
        latch := 3#3, pc := s.pc + 2
        cur := { s.cur with vol1 := BitVec.ofNat 4 (15 - val.toNat) } } ∧
      exec (.psgwL 5#3 val) s = .next { flushedIfPending s with
        latch := 5#3, pc := s.pc + 2
        cur := { s.cur with vol2 := BitVec.ofNat 4 (15 - val.toNat) } } ∧
      exec (.psgwL 7#3 val) s = .next { flushedIfPending s with
        latch := 7#3, pc := s.pc + 2
        cur := { s.cur with volN := BitVec.ofNat 4 (15 - val.toNat) } }

/-- A data byte stores its six bits in bits 7 to 2 of the tone the Latch selects, keeps bits 1 and 0 and the Latch,
and ignores operand bit 6; before that the pending delay is flushed. The six-bit field is decision D5
(notes/assumptions/8.md), the selector map D4 (7.md), and the flush test in samples D11 (16.md); that the syntax keeps
operand bit 6 is 26.md. -/
def Obligations.DataByteWritesToneHighBits : Prop :=
  ∀ (ignored : BitVec 1) (hi : BitVec 6) (s : State), 0 < s.cfg.tickSamples →
    s.pc + 2 ≤ s.cfg.maxOffset → roomToWrite s →
      (s.latch = 0#3 → exec (.psgwD ignored hi) s = .next { flushedIfPending s with
        pc := s.pc + 2
        cur := { s.cur with tone0 := hi ++ s.cur.tone0.extractLsb' 0 2 } }) ∧
      (s.latch = 2#3 → exec (.psgwD ignored hi) s = .next { flushedIfPending s with
        pc := s.pc + 2
        cur := { s.cur with tone1 := hi ++ s.cur.tone1.extractLsb' 0 2 } }) ∧
      (s.latch = 4#3 → exec (.psgwD ignored hi) s = .next { flushedIfPending s with
        pc := s.pc + 2
        cur := { s.cur with tone2 := hi ++ s.cur.tone2.extractLsb' 0 2 } })

/-- A data byte while the Latch selects the noise or a volume register changes no register, and still flushes and
moves `PC` (decisions D6 and D11, notes/assumptions/8.md and 16.md). Which selectors name these registers is decision
D4 (7.md). -/
def Obligations.DataByteOnFourBitRegisterIsDiscarded : Prop :=
  ∀ (ignored : BitVec 1) (hi : BitVec 6) (s : State), 0 < s.cfg.tickSamples →
    s.pc + 2 ≤ s.cfg.maxOffset → roomToWrite s →
    s.latch = 1#3 ∨ s.latch = 3#3 ∨ s.latch = 5#3 ∨ s.latch = 6#3 ∨ s.latch = 7#3 →
      exec (.psgwD ignored hi) s = .next { flushedIfPending s with pc := s.pc + 2 }

/-- A Register write, of either form, whose flush-before-write does not fit stops for capacity and its operand is not
applied (decisions D11, D13 and D14, notes/assumptions/16.md, 17.md and 12.md). -/
def Obligations.RegisterWriteWithoutRoomIsAbandoned : Prop :=
  ∀ (sel : BitVec 3) (val : Nibble) (ignored : BitVec 1) (hi : BitVec 6) (s : State),
    0 < s.cfg.tickSamples → s.pc + 2 ≤ s.cfg.maxOffset → s.pendingDelay ≠ 0 →
    flushFits s = false →
      ∃ t, exec (.psgwL sel val) s = .next t ∧ exec (.psgwD ignored hi) s = .next t ∧
        t.status = .stoppedCapacity ∧ t.pc = s.pc ∧ t.cur = s.cur ∧ t.latch = s.latch ∧
        t.unknownLog = s.unknownLog ∧ t.errOffset = s.errOffset

/-- The two commands of a tone write leave in that tone bits 9 to 2 of the 10-bit period, whatever it held before, and
change no other register. The selector map is decision D4 (notes/assumptions/7.md) and the six-bit data field D5
(8.md). -/
def Obligations.ToneWriteStoresPeriodBitsNineToTwo : Prop :=
  ∀ (k : Fin 3) (p : BitVec 10) (s : State), s.pendingDelay = 0 → s.pc + 4 ≤ s.cfg.maxOffset →
    ∃ first second t u, toneCommands k p = [first, second] ∧
      exec first s = .next t ∧ exec second t = .next u ∧
      u = { s with
        pc := s.pc + 4
        latch := BitVec.ofNat 3 (2 * k.val)
        cur :=
          { s.cur with
            tone0 := if k = 0 then p.extractLsb' 2 8 else s.cur.tone0
            tone1 := if k = 1 then p.extractLsb' 2 8 else s.cur.tone1
            tone2 := if k = 2 then p.extractLsb' 2 8 else s.cur.tone2 } }

/-- A command that completes keeps `CUR` equal to what the block stores for the 10-bit registers of the wire protocol,
and `LATCH` to the register it last selected; one that halts the pass leaves both. The map is decision D4, the data
field D5, and a data byte on a 4-bit register D6 (notes/assumptions/7.md, 8.md). That a command which halts the pass
leaves both is decision D14 for a capacity stop (notes/assumptions/12.md) and D16 for `Framing`
(notes/assumptions/19.md). The wire registers are the reference reading of 30.md. -/
def Obligations.StoredRegistersTrackTheWire : Prop :=
  ∀ (i : Instr) (s t : State) (w : WireRegs), s.status = .running →
    s.cur = w.stored → selectReg s.latch = w.latched → exec i s = .next t →
      (t.status = .running → t.cur = (w.after i).stored ∧ selectReg t.latch = (w.after i).latched) ∧
      (t.status ≠ .running → t.cur = w.stored ∧ selectReg t.latch = w.latched)
end

