-- ==== Sys2Proof/Laws/Encoding.lean ====
section
/-!
SUPPORT. The bit-level laws of the operand byte of a Register write and of the opcode map.
-/
namespace Sys2Proof

/-- The operand byte of the latch form reads back (R73). -/
theorem decodePsgOperand_latch (sel : BitVec 3) (val : Nibble) :
    decodePsgOperand (1#1 ++ sel ++ val) = .psgwL sel val := by
  revert sel val
  decide

/-- The operand byte of the data form reads back (R73). -/
theorem decodePsgOperand_data (ignored : BitVec 1) (hi : BitVec 6) :
    decodePsgOperand (0#1 ++ ignored ++ hi) = .psgwD ignored hi := by
  revert ignored hi
  decide

/-- A count taken apart and put together again (R57). -/
theorem waitCount_extract (c : BitVec 16) :
    waitCount (c.extractLsb' 0 8) (c.extractLsb' 8 8) = c := by
  apply BitVec.eq_of_getLsbD_eq
  intro i hi
  rw [waitCount, BitVec.getLsbD_append]
  by_cases h : i < 8
  · simp [h]
  · simp [h, show i - 8 < 8 by omega, show 8 + (i - 8) = i by omega]

theorem extract_low_waitCount (lo hi : Byte) : (waitCount lo hi).extractLsb' 0 8 = lo := by
  apply BitVec.eq_of_getLsbD_eq
  intro i hi
  rw [waitCount, BitVec.getLsbD_extractLsb', BitVec.getLsbD_append]
  simp [hi]

theorem extract_high_waitCount (lo hi : Byte) : (waitCount lo hi).extractLsb' 8 8 = hi := by
  apply BitVec.eq_of_getLsbD_eq
  intro i hi
  rw [waitCount, BitVec.getLsbD_extractLsb', BitVec.getLsbD_append]
  simp [hi]

/-- The value of a WAITN count (R57, R80). -/
theorem waitCount_toNat (lo hi : Byte) :
    (waitCount lo hi).toNat = lo.toNat + 256 * hi.toNat := by
  rw [waitCount, BitVec.toNat_append, ← Nat.shiftLeft_add_eq_or_of_lt lo.isLt, Nat.shiftLeft_eq]
  omega

/-- The two forms of an operand byte, each holding all its bits (R73, R75). -/
theorem decodePsgOperand_cases (d : Byte) :
    (decodePsgOperand d = .psgwL (d.extractLsb' 4 3) (d.extractLsb' 0 4) ∧
      d = 1#1 ++ d.extractLsb' 4 3 ++ d.extractLsb' 0 4) ∨
    (decodePsgOperand d = .psgwD (d.extractLsb' 6 1) (d.extractLsb' 0 6) ∧
      d = 0#1 ++ d.extractLsb' 6 1 ++ d.extractLsb' 0 6) := by
  revert d
  decide

/-- A byte outside the map is no single opcode and lies outside the family (R76). -/
theorem OpMap.recognises_eq_false {m : OpMap} {op : Byte} (h : m.recognises op = false) :
    op ∉ m.singles ∧ m.inShortFamily op = false := by
  simpa [OpMap.recognises] using h

@[simp] theorem decode_nil (m : OpMap) : decode m [] = .rejected .noOpcodeByte := rfl

@[simp] theorem decode_cons (m : OpMap) (op : Byte) (after : List Byte) :
    decode m (op :: after) = decodeClass (classify m op) op after := rfl

/-- What a proper map gives (R5). -/
theorem OpMap.wf_spec {m : OpMap} (h : m.wf = true) :
    m.singles.Nodup ∧ (∀ op ∈ m.singles, m.inShortFamily op = false) ∧
      m.waitShortBase.extractLsb' 0 4 = 0#4 := by
  simp only [OpMap.wf, Bool.and_eq_true, decide_eq_true_eq, List.all_eq_true] at h
  exact ⟨h.1.1, fun op ho => by simpa using h.1.2 op ho, h.2⟩

theorem OpMap.decided_wf : OpMap.decided.wf = true := by decide

end Sys2Proof
end

