-- ==== Sys2Proof/Laws/State.lean ====
section
/-!
SUPPORT. What each update of the state leaves in each field, so that no later proof unfolds a record update.
-/
namespace Sys2Proof.Machine

variable (s : State)

/-! ### The fields after taking `Framing` (R191) -/

@[simp] theorem raise_framing_cfg (off : Nat) : (raise (.framing off) s).cfg = s.cfg := rfl
@[simp] theorem raise_framing_src (off : Nat) : (raise (.framing off) s).src = s.src := rfl
@[simp] theorem raise_framing_pc (off : Nat) : (raise (.framing off) s).pc = s.pc := rfl
@[simp] theorem raise_framing_cur (off : Nat) : (raise (.framing off) s).cur = s.cur := rfl
@[simp] theorem raise_framing_prev (off : Nat) : (raise (.framing off) s).prev = s.prev := rfl
@[simp] theorem raise_framing_latch (off : Nat) : (raise (.framing off) s).latch = s.latch := rfl
@[simp] theorem raise_framing_pendingDelay (off : Nat) :
    (raise (.framing off) s).pendingDelay = s.pendingDelay := rfl
@[simp] theorem raise_framing_out (off : Nat) : (raise (.framing off) s).out = s.out := rfl
@[simp] theorem raise_framing_status (off : Nat) : (raise (.framing off) s).status = .faultFraming := rfl
@[simp] theorem raise_framing_errOffset (off : Nat) : (raise (.framing off) s).errOffset = off := rfl
@[simp] theorem raise_framing_unknownLog (off : Nat) :
    (raise (.framing off) s).unknownLog = s.unknownLog := rfl

/-! ### The fields after recording `Unknown` (R192) -/

@[simp] theorem raise_unknown_cfg (off : Nat) (op : Byte) : (raise (.unknown off op) s).cfg = s.cfg := rfl
@[simp] theorem raise_unknown_src (off : Nat) (op : Byte) : (raise (.unknown off op) s).src = s.src := rfl
@[simp] theorem raise_unknown_pc (off : Nat) (op : Byte) : (raise (.unknown off op) s).pc = s.pc := rfl
@[simp] theorem raise_unknown_cur (off : Nat) (op : Byte) : (raise (.unknown off op) s).cur = s.cur := rfl
@[simp] theorem raise_unknown_prev (off : Nat) (op : Byte) : (raise (.unknown off op) s).prev = s.prev := rfl
@[simp] theorem raise_unknown_latch (off : Nat) (op : Byte) :
    (raise (.unknown off op) s).latch = s.latch := rfl
@[simp] theorem raise_unknown_pendingDelay (off : Nat) (op : Byte) :
    (raise (.unknown off op) s).pendingDelay = s.pendingDelay := rfl
@[simp] theorem raise_unknown_out (off : Nat) (op : Byte) : (raise (.unknown off op) s).out = s.out := rfl
@[simp] theorem raise_unknown_status (off : Nat) (op : Byte) :
    (raise (.unknown off op) s).status = s.status := rfl
@[simp] theorem raise_unknown_errOffset (off : Nat) (op : Byte) :
    (raise (.unknown off op) s).errOffset = s.errOffset := rfl
@[simp] theorem raise_unknown_unknownLog (off : Nat) (op : Byte) :
    (raise (.unknown off op) s).unknownLog = s.unknownLog ++ [(off, op)] := rfl

/-! ### The fields after taking `Capacity` (R193) -/

@[simp] theorem raise_capacity_cfg : (raise .capacity s).cfg = s.cfg := rfl
@[simp] theorem raise_capacity_src : (raise .capacity s).src = s.src := rfl
@[simp] theorem raise_capacity_pc : (raise .capacity s).pc = s.pc := rfl
@[simp] theorem raise_capacity_cur : (raise .capacity s).cur = s.cur := rfl
@[simp] theorem raise_capacity_prev : (raise .capacity s).prev = s.prev := rfl
@[simp] theorem raise_capacity_latch : (raise .capacity s).latch = s.latch := rfl
@[simp] theorem raise_capacity_pendingDelay : (raise .capacity s).pendingDelay = s.pendingDelay := rfl
@[simp] theorem raise_capacity_out : (raise .capacity s).out = s.out := rfl
@[simp] theorem raise_capacity_status : (raise .capacity s).status = .stoppedCapacity := rfl
@[simp] theorem raise_capacity_errOffset : (raise .capacity s).errOffset = s.errOffset := rfl
@[simp] theorem raise_capacity_unknownLog : (raise .capacity s).unknownLog = s.unknownLog := rfl

/-! ### The fields after a halt -/

@[simp] theorem halt_cfg (cause : Status) : (halt cause s).cfg = s.cfg := rfl
@[simp] theorem halt_src (cause : Status) : (halt cause s).src = s.src := rfl
@[simp] theorem halt_pc (cause : Status) : (halt cause s).pc = s.pc := rfl
@[simp] theorem halt_cur (cause : Status) : (halt cause s).cur = s.cur := rfl
@[simp] theorem halt_prev (cause : Status) : (halt cause s).prev = s.prev := rfl
@[simp] theorem halt_latch (cause : Status) : (halt cause s).latch = s.latch := rfl
@[simp] theorem halt_pendingDelay (cause : Status) : (halt cause s).pendingDelay = s.pendingDelay := rfl
@[simp] theorem halt_out (cause : Status) : (halt cause s).out = s.out := rfl
@[simp] theorem halt_status (cause : Status) : (halt cause s).status = cause := rfl
@[simp] theorem halt_errOffset (cause : Status) : (halt cause s).errOffset = s.errOffset := rfl
@[simp] theorem halt_unknownLog (cause : Status) : (halt cause s).unknownLog = s.unknownLog := rfl

/-! ### The fields after the advance of `PC` -/

@[simp] theorem advance_cfg (len : Nat) : (advance len s).cfg = s.cfg := rfl
@[simp] theorem advance_src (len : Nat) : (advance len s).src = s.src := rfl
@[simp] theorem advance_pc (len : Nat) : (advance len s).pc = s.pc + len := rfl
@[simp] theorem advance_cur (len : Nat) : (advance len s).cur = s.cur := rfl
@[simp] theorem advance_prev (len : Nat) : (advance len s).prev = s.prev := rfl
@[simp] theorem advance_latch (len : Nat) : (advance len s).latch = s.latch := rfl
@[simp] theorem advance_pendingDelay (len : Nat) : (advance len s).pendingDelay = s.pendingDelay := rfl
@[simp] theorem advance_out (len : Nat) : (advance len s).out = s.out := rfl
@[simp] theorem advance_status (len : Nat) : (advance len s).status = s.status := rfl
@[simp] theorem advance_errOffset (len : Nat) : (advance len s).errOffset = s.errOffset := rfl
@[simp] theorem advance_unknownLog (len : Nat) : (advance len s).unknownLog = s.unknownLog := rfl

/-! ### The fields after adding delay -/

@[simp] theorem addDelay_cfg (count : Nat) : (addDelay count s).cfg = s.cfg := rfl
@[simp] theorem addDelay_src (count : Nat) : (addDelay count s).src = s.src := rfl
@[simp] theorem addDelay_pc (count : Nat) : (addDelay count s).pc = s.pc := rfl
@[simp] theorem addDelay_cur (count : Nat) : (addDelay count s).cur = s.cur := rfl
@[simp] theorem addDelay_prev (count : Nat) : (addDelay count s).prev = s.prev := rfl
@[simp] theorem addDelay_latch (count : Nat) : (addDelay count s).latch = s.latch := rfl
@[simp] theorem addDelay_pendingDelay (count : Nat) :
    (addDelay count s).pendingDelay = s.pendingDelay + count := rfl
@[simp] theorem addDelay_out (count : Nat) : (addDelay count s).out = s.out := rfl
@[simp] theorem addDelay_status (count : Nat) : (addDelay count s).status = s.status := rfl
@[simp] theorem addDelay_errOffset (count : Nat) : (addDelay count s).errOffset = s.errOffset := rfl
@[simp] theorem addDelay_unknownLog (count : Nat) : (addDelay count s).unknownLog = s.unknownLog := rfl

/-! ### The fields after `Append` -/

@[simp] theorem append_cfg (bytes : List Byte) : (append bytes s).cfg = s.cfg := rfl
@[simp] theorem append_src (bytes : List Byte) : (append bytes s).src = s.src := rfl
@[simp] theorem append_pc (bytes : List Byte) : (append bytes s).pc = s.pc := rfl
@[simp] theorem append_cur (bytes : List Byte) : (append bytes s).cur = s.cur := rfl
@[simp] theorem append_prev (bytes : List Byte) : (append bytes s).prev = s.prev := rfl
@[simp] theorem append_latch (bytes : List Byte) : (append bytes s).latch = s.latch := rfl
@[simp] theorem append_pendingDelay (bytes : List Byte) :
    (append bytes s).pendingDelay = s.pendingDelay := rfl
@[simp] theorem append_out (bytes : List Byte) : (append bytes s).out = s.out ++ bytes := rfl
@[simp] theorem append_status (bytes : List Byte) : (append bytes s).status = s.status := rfl
@[simp] theorem append_errOffset (bytes : List Byte) : (append bytes s).errOffset = s.errOffset := rfl
@[simp] theorem append_unknownLog (bytes : List Byte) : (append bytes s).unknownLog = s.unknownLog := rfl

/-! ### The fields after consuming delay -/

@[simp] theorem consumeDelay_cfg (d : Nat) : (consumeDelay d s).cfg = s.cfg := rfl
@[simp] theorem consumeDelay_src (d : Nat) : (consumeDelay d s).src = s.src := rfl
@[simp] theorem consumeDelay_pc (d : Nat) : (consumeDelay d s).pc = s.pc := rfl
@[simp] theorem consumeDelay_cur (d : Nat) : (consumeDelay d s).cur = s.cur := rfl
@[simp] theorem consumeDelay_prev (d : Nat) : (consumeDelay d s).prev = s.prev := rfl
@[simp] theorem consumeDelay_latch (d : Nat) : (consumeDelay d s).latch = s.latch := rfl
@[simp] theorem consumeDelay_pendingDelay (d : Nat) :
    (consumeDelay d s).pendingDelay = s.pendingDelay - d * s.cfg.tickSamples := rfl
@[simp] theorem consumeDelay_out (d : Nat) : (consumeDelay d s).out = s.out := rfl
@[simp] theorem consumeDelay_status (d : Nat) : (consumeDelay d s).status = s.status := rfl
@[simp] theorem consumeDelay_errOffset (d : Nat) : (consumeDelay d s).errOffset = s.errOffset := rfl
@[simp] theorem consumeDelay_unknownLog (d : Nat) : (consumeDelay d s).unknownLog = s.unknownLog := rfl

/-! ### The fields after a wait -/

@[simp] theorem waitFor_cfg (count len : Nat) : (waitFor count len s).cfg = s.cfg := rfl
@[simp] theorem waitFor_src (count len : Nat) : (waitFor count len s).src = s.src := rfl
@[simp] theorem waitFor_pc (count len : Nat) : (waitFor count len s).pc = s.pc + len := rfl
@[simp] theorem waitFor_cur (count len : Nat) : (waitFor count len s).cur = s.cur := rfl
@[simp] theorem waitFor_prev (count len : Nat) : (waitFor count len s).prev = s.prev := rfl
@[simp] theorem waitFor_latch (count len : Nat) : (waitFor count len s).latch = s.latch := rfl
@[simp] theorem waitFor_pendingDelay (count len : Nat) :
    (waitFor count len s).pendingDelay = s.pendingDelay + count := rfl
@[simp] theorem waitFor_out (count len : Nat) : (waitFor count len s).out = s.out := rfl
@[simp] theorem waitFor_status (count len : Nat) : (waitFor count len s).status = s.status := rfl
@[simp] theorem waitFor_errOffset (count len : Nat) : (waitFor count len s).errOffset = s.errOffset := rfl
@[simp] theorem waitFor_unknownLog (count len : Nat) : (waitFor count len s).unknownLog = s.unknownLog := rfl

/-! ### The fields after a latch byte -/

@[simp] theorem applyLatch_cfg (sel : BitVec 3) (val : Nibble) : (applyLatch sel val s).cfg = s.cfg := rfl
@[simp] theorem applyLatch_src (sel : BitVec 3) (val : Nibble) : (applyLatch sel val s).src = s.src := rfl
@[simp] theorem applyLatch_pc (sel : BitVec 3) (val : Nibble) : (applyLatch sel val s).pc = s.pc := rfl
@[simp] theorem applyLatch_cur (sel : BitVec 3) (val : Nibble) :
    (applyLatch sel val s).cur = s.cur.latchWrite (selectReg sel) val := rfl
@[simp] theorem applyLatch_prev (sel : BitVec 3) (val : Nibble) : (applyLatch sel val s).prev = s.prev := rfl
@[simp] theorem applyLatch_latch (sel : BitVec 3) (val : Nibble) : (applyLatch sel val s).latch = sel := rfl
@[simp] theorem applyLatch_pendingDelay (sel : BitVec 3) (val : Nibble) :
    (applyLatch sel val s).pendingDelay = s.pendingDelay := rfl
@[simp] theorem applyLatch_out (sel : BitVec 3) (val : Nibble) : (applyLatch sel val s).out = s.out := rfl
@[simp] theorem applyLatch_status (sel : BitVec 3) (val : Nibble) :
    (applyLatch sel val s).status = s.status := rfl
@[simp] theorem applyLatch_errOffset (sel : BitVec 3) (val : Nibble) :
    (applyLatch sel val s).errOffset = s.errOffset := rfl
@[simp] theorem applyLatch_unknownLog (sel : BitVec 3) (val : Nibble) :
    (applyLatch sel val s).unknownLog = s.unknownLog := rfl

/-! ### The fields after a data byte -/

@[simp] theorem applyData_cfg (hi : BitVec 6) : (applyData hi s).cfg = s.cfg := rfl
@[simp] theorem applyData_src (hi : BitVec 6) : (applyData hi s).src = s.src := rfl
@[simp] theorem applyData_pc (hi : BitVec 6) : (applyData hi s).pc = s.pc := rfl
@[simp] theorem applyData_cur (hi : BitVec 6) :
    (applyData hi s).cur = s.cur.dataWrite (selectReg s.latch) hi := rfl
@[simp] theorem applyData_prev (hi : BitVec 6) : (applyData hi s).prev = s.prev := rfl
@[simp] theorem applyData_latch (hi : BitVec 6) : (applyData hi s).latch = s.latch := rfl
@[simp] theorem applyData_pendingDelay (hi : BitVec 6) : (applyData hi s).pendingDelay = s.pendingDelay := rfl
@[simp] theorem applyData_out (hi : BitVec 6) : (applyData hi s).out = s.out := rfl
@[simp] theorem applyData_status (hi : BitVec 6) : (applyData hi s).status = s.status := rfl
@[simp] theorem applyData_errOffset (hi : BitVec 6) : (applyData hi s).errOffset = s.errOffset := rfl
@[simp] theorem applyData_unknownLog (hi : BitVec 6) : (applyData hi s).unknownLog = s.unknownLog := rfl

/-! ### The fields after a whole Flush -/

@[simp] theorem flushed_cfg : (flushed s).cfg = s.cfg := rfl
@[simp] theorem flushed_src : (flushed s).src = s.src := rfl
@[simp] theorem flushed_pc : (flushed s).pc = s.pc := rfl
@[simp] theorem flushed_cur : (flushed s).cur = s.cur := rfl
@[simp] theorem flushed_prev : (flushed s).prev = s.cur := rfl
@[simp] theorem flushed_latch : (flushed s).latch = s.latch := rfl
@[simp] theorem flushed_pendingDelay : (flushed s).pendingDelay = s.pendingDelay % s.cfg.tickSamples := rfl
@[simp] theorem flushed_out : (flushed s).out = s.out ++ flushBytes s := rfl
@[simp] theorem flushed_status : (flushed s).status = s.status := rfl
@[simp] theorem flushed_errOffset : (flushed s).errOffset = s.errOffset := rfl
@[simp] theorem flushed_unknownLog : (flushed s).unknownLog = s.unknownLog := rfl

/-! ### The fields after reset (R38) -/

variable (cfg : Config) (src : Memory)

@[simp] theorem State.resetWith_cfg : (State.resetWith cfg src).cfg = cfg := rfl
@[simp] theorem State.resetWith_src : (State.resetWith cfg src).src = src := rfl
@[simp] theorem State.resetWith_pc : (State.resetWith cfg src).pc = cfg.startOffset := rfl
@[simp] theorem State.resetWith_cur : (State.resetWith cfg src).cur = Regs.zero := rfl
@[simp] theorem State.resetWith_prev : (State.resetWith cfg src).prev = Regs.zero := rfl
@[simp] theorem State.resetWith_latch : (State.resetWith cfg src).latch = 0 := rfl
@[simp] theorem State.resetWith_pendingDelay : (State.resetWith cfg src).pendingDelay = 0 := rfl
@[simp] theorem State.resetWith_out : (State.resetWith cfg src).out = [] := rfl
@[simp] theorem State.resetWith_status : (State.resetWith cfg src).status = .running := rfl
@[simp] theorem State.resetWith_errOffset : (State.resetWith cfg src).errOffset = 0 := rfl
@[simp] theorem State.resetWith_unknownLog : (State.resetWith cfg src).unknownLog = [] := rfl

@[simp] theorem applyReset_eq : applyReset cfg src s = State.resetWith cfg src := rfl

end Sys2Proof.Machine
end

