-- ==== Sys2Proof/Laws/Ops.lean ====
section
/-!
SUPPORT. What each shared operation can do, said once (spec/20_memory.md R55, spec/30_encoding.md R79,
spec/43_frame_encoder.md R172).
-/
namespace Sys2Proof.Machine

theorem wellFramed_iff {len : Nat} {s : State} :
    wellFramed len s = true ↔ s.pc + len ≤ s.cfg.maxOffset := by
  simp [wellFramed]

theorem fits_iff {len : Nat} {s : State} :
    fits len s = true ↔ s.out.length + len ≤ s.cfg.outCapacity := by
  simp [fits]

theorem fits_eq_false_iff {len : Nat} {s : State} :
    fits len s = false ↔ s.cfg.outCapacity < s.out.length + len := by
  simp [fits]

theorem ifFramed_of_le {len : Nat} {s : State} {body : Result} (h : s.pc + len ≤ s.cfg.maxOffset) :
    ifFramed len s body = body := by
  rw [ifFramed, if_pos (wellFramed_iff.mpr h)]

theorem ifFramed_of_lt {len : Nat} {s : State} {body : Result} (h : s.cfg.maxOffset < s.pc + len) :
    ifFramed len s body = .next (raise (.framing s.pc) s) := by
  rw [ifFramed, if_neg (fun hw => by have := wellFramed_iff.mp hw; omega)]

/-- Everything a command with a bound test can answer. -/
theorem ifFramed_eq_next {len : Nat} {s t : State} {body : Result}
    (h : ifFramed len s body = .next t) :
    (s.pc + len ≤ s.cfg.maxOffset ∧ body = .next t) ∨
    (s.cfg.maxOffset < s.pc + len ∧ t = raise (.framing s.pc) s) := by
  rcases Nat.lt_or_ge s.cfg.maxOffset (s.pc + len) with hlt | hle
  · rw [ifFramed_of_lt hlt] at h
    exact .inr ⟨hlt, (Host.Outcome.next.inj h).symm⟩
  · exact .inl ⟨hle, by rwa [ifFramed_of_le hle] at h⟩

@[simp] theorem afterFlush_ok (s : State) (go : State → State) :
    afterFlush (.ok s) go = .next (go s) := rfl

@[simp] theorem afterFlush_truncated (s : State) (go : State → State) :
    afterFlush (.truncated s) go = .next (raise .capacity s) := rfl

/-- Everything the caller of a Flush can answer. -/
theorem afterFlush_eq_next {r : FlushResult} {go : State → State} {t : State}
    (h : afterFlush r go = .next t) :
    (∃ u, r = .ok u ∧ t = go u) ∨ (∃ u, r = .truncated u ∧ t = raise .capacity u) := by
  cases r with
  | ok u => exact .inl ⟨u, rfl, (Host.Outcome.next.inj h).symm⟩
  | truncated u => exact .inr ⟨u, rfl, (Host.Outcome.next.inj h).symm⟩

/-- A Flush always has an outcome for its caller. -/
theorem afterFlush_total (r : FlushResult) (go : State → State) :
    ∃ t, afterFlush r go = .next t := by
  cases r <;> exact ⟨_, rfl⟩

end Sys2Proof.Machine
end

