-- ==== Sys2Proof/Laws/Frame.lean ====
section
/-!
SUPPORT. What committing a frame, the continuation loop and the start of a Flush can do, said once
(spec/43_frame_encoder.md R169).
-/
namespace Sys2Proof.Machine

/-- The state after a frame with delay field `d` is committed. -/
theorem commitFrame_eq_some {d : Nat} {frame : List Byte} {s t : State} :
    commitFrame d frame s = some t ↔
      fits frame.length s = true ∧ t = consumeDelay d (append frame s) := by
  unfold commitFrame
  split
  · rename_i h
    simp [h, eq_comm]
  · rename_i h
    simp [h]

theorem commitFrame_eq_none {d : Nat} {frame : List Byte} {s : State} :
    commitFrame d frame s = none ↔ fits frame.length s = false := by
  unfold commitFrame
  split <;> simp_all

/-- One round of the continuation loop. -/
theorem continueFrames_succ (fuel ticks : Nat) (s : State) (h : ticks ≠ 0) :
    continueFrames (fuel + 1) ticks s =
      if fits 1 s then
        continueFrames fuel (ticks - delayField ticks)
          (consumeDelay (delayField ticks) (append (continuationFrame (delayField ticks)) s))
      else .truncated s := by
  rw [continueFrames, if_neg h]
  cases hf : fits 1 s with
  | true =>
    have hc : commitFrame (delayField ticks) (continuationFrame (delayField ticks)) s
        = some (consumeDelay (delayField ticks)
            (append (continuationFrame (delayField ticks)) s)) :=
      commitFrame_eq_some.mpr ⟨hf, rfl⟩
    simp [hc]
  | false =>
    have hc : commitFrame (delayField ticks) (continuationFrame (delayField ticks)) s = none :=
      commitFrame_eq_none.mpr hf
    simp [hc]

@[simp] theorem continueFrames_zero (fuel : Nat) (s : State) : continueFrames fuel 0 s = .ok s := by
  cases fuel <;> simp [continueFrames]

/-- The state that either outcome of a Flush leaves. -/
def FlushResult.state : FlushResult → State
  | .ok s => s
  | .truncated s => s

/-- Everything the continuation loop can leave: delay fields of 1 to 3 ticks, one byte each, and that much less
delay pending. -/
theorem continueFrames_spec (fuel ticks : Nat) (s : State) :
    ∃ ds : List Nat, (∀ d ∈ ds, 0 < d ∧ d ≤ 3) ∧ ds.sum ≤ ticks ∧
      (continueFrames fuel ticks s).state =
        { s with
          out := s.out ++ ds.flatMap continuationFrame
          pendingDelay := s.pendingDelay - ds.sum * s.cfg.tickSamples } := by
  induction fuel generalizing ticks s with
  | zero => exact ⟨[], by simp, by simp, by simp [continueFrames, FlushResult.state]⟩
  | succ fuel ih =>
    by_cases h0 : ticks = 0
    · subst h0
      exact ⟨[], by simp, by simp, by simp [FlushResult.state]⟩
    · rw [continueFrames_succ _ _ _ h0]
      split
      · obtain ⟨ds, hds, hsum, heq⟩ := ih (ticks - delayField ticks)
          (consumeDelay (delayField ticks) (append (continuationFrame (delayField ticks)) s))
        have hd : 0 < delayField ticks ∧ delayField ticks ≤ 3 ∧ delayField ticks ≤ ticks := by
          unfold delayField
          omega
        refine ⟨delayField ticks :: ds, ?_, ?_, ?_⟩
        · intro d hd'
          rcases List.mem_cons.mp hd' with rfl | hd'
          · exact ⟨hd.1, hd.2.1⟩
          · exact hds d hd'
        · simp only [List.sum_cons]
          omega
        · rw [heq]
          simp [consumeDelay, append, Nat.add_mul, Nat.sub_add_eq]
      · exact ⟨[], by simp, by simp, by simp [FlushResult.state]⟩

/-- The two ways a Flush starts: the first frame does not fit and nothing has changed, or it is committed, `PREV`
becomes `CUR`, and the continuation loop runs. -/
theorem flush_cases (s : State) :
    (fits (firstFrame s).length s = false ∧ flush s = .truncated s) ∨
    (fits (firstFrame s).length s = true ∧
      flush s = continueFrames (pendingTicks s) (pendingTicks s - delayField (pendingTicks s))
        { s with
          out := s.out ++ firstFrame s
          prev := s.cur
          pendingDelay := s.pendingDelay - delayField (pendingTicks s) * s.cfg.tickSamples }) := by
  cases hf : fits (firstFrame s).length s with
  | false =>
    refine .inl ⟨rfl, ?_⟩
    simp [flush, commitFrame_eq_none.mpr hf]
  | true =>
    refine .inr ⟨rfl, ?_⟩
    simp only [flush]
    rw [commitFrame_eq_some.mpr ⟨hf, rfl⟩]
    rfl

theorem firstFrame_length (s : State) :
    (firstFrame s).length = 1 + (payloadBytes (changeFlags s.cur s.prev) s.cur).length := by
  simp [firstFrame, Nat.add_comm]

end Sys2Proof.Machine
end

