-- ==== Sys2Proof/Laws/Exec.lean ====
section
/-!
SUPPORT. Everything a command can do, said once: it is badly framed, or its Flush is truncated, or it completes.
-/
namespace Sys2Proof.Machine

/-- What a command that completes does after its Flush, if it has one. -/
def complete (i : Instr) (s : State) : State :=
  match i with
  | .skip1 _ => advance 2 s
  | .psgwL sel val => advance 2 (applyLatch sel val s)
  | .psgwD _ hi => advance 2 (applyData hi s)
  | .waitN count => waitFor count.toNat 3 s
  | .wait60 => waitFor wait60Samples 1 s
  | .wait50 => waitFor wait50Samples 1 s
  | .eod => halt .doneEnd (advance 1 s)
  | .waitS n => waitFor (shortCount n) 1 s
  | .unknown op => advance 1 (raise (.unknown s.pc op) s)

/-- A command does not claim bytes at or above `MAX_OFFSET` (R79); one byte never does. -/
def framedIn (i : Instr) (s : State) : Prop := i.length = 1 ∨ s.pc + i.length ≤ s.cfg.maxOffset

/-- A Register write is badly framed, or its flush-before-write is truncated, or it applies its operand. -/
theorem registerWrite_cases {apply : State → State} {s t : State}
    (h : registerWrite apply s = .next t) :
    (s.cfg.maxOffset < s.pc + 2 ∧ t = raise (.framing s.pc) s) ∨
    (s.pc + 2 ≤ s.cfg.maxOffset ∧ s.pendingDelay ≠ 0 ∧
      ∃ u, flush s = .truncated u ∧ t = raise .capacity u) ∨
    (s.pc + 2 ≤ s.cfg.maxOffset ∧ ∃ u, t = advance 2 (apply u) ∧
      (s.pendingDelay = 0 ∧ u = s ∨ s.pendingDelay ≠ 0 ∧ flush s = .ok u)) := by
  rcases ifFramed_eq_next h with ⟨hle, h⟩ | ⟨hlt, h⟩
  · by_cases h0 : s.pendingDelay = 0
    · rw [flushIfPending, if_neg (fun hn => hn h0)] at h
      exact .inr (.inr ⟨hle, s, (Host.Outcome.next.inj h).symm, .inl ⟨h0, rfl⟩⟩)
    · rw [flushIfPending, if_pos h0] at h
      rcases afterFlush_eq_next h with ⟨u, hu, ht⟩ | ⟨u, hu, ht⟩
      · exact .inr (.inr ⟨hle, u, ht, .inr ⟨h0, hu⟩⟩)
      · exact .inr (.inl ⟨hle, h0, u, hu, ht⟩)
  · exact .inl ⟨hlt, h⟩

/-- Everything a command can do. -/
theorem exec_cases {i : Instr} {s t : State} (h : exec i s = .next t) :
    (1 < i.length ∧ s.cfg.maxOffset < s.pc + i.length ∧ t = raise (.framing s.pc) s) ∨
    (framedIn i s ∧ flushesIn i s ∧ ∃ u, flush s = .truncated u ∧ t = raise .capacity u) ∨
    (framedIn i s ∧ ∃ u, t = complete i u ∧
      (¬flushesIn i s ∧ u = s ∨ flushesIn i s ∧ flush s = .ok u)) := by
  cases i with
  | skip1 b =>
    rcases ifFramed_eq_next h with ⟨hle, h⟩ | ⟨hlt, h⟩
    · exact .inr (.inr ⟨.inr hle, s, (Host.Outcome.next.inj h).symm, .inl ⟨id, rfl⟩⟩)
    · exact .inl ⟨by simp [Instr.length], hlt, h⟩
  | psgwL sel val =>
    rcases registerWrite_cases h with ⟨hlt, h⟩ | ⟨hle, h0, u, hu, ht⟩ | ⟨hle, u, ht, hu⟩
    · exact .inl ⟨by simp [Instr.length], hlt, h⟩
    · exact .inr (.inl ⟨.inr hle, h0, u, hu, ht⟩)
    · exact .inr (.inr ⟨.inr hle, u, ht, hu.imp (fun h => ⟨fun hn => hn h.1, h.2⟩) id⟩)
  | psgwD ignored hi =>
    rcases registerWrite_cases h with ⟨hlt, h⟩ | ⟨hle, h0, u, hu, ht⟩ | ⟨hle, u, ht, hu⟩
    · exact .inl ⟨by simp [Instr.length], hlt, h⟩
    · exact .inr (.inl ⟨.inr hle, h0, u, hu, ht⟩)
    · exact .inr (.inr ⟨.inr hle, u, ht, hu.imp (fun h => ⟨fun hn => hn h.1, h.2⟩) id⟩)
  | waitN count =>
    rcases ifFramed_eq_next h with ⟨hle, h⟩ | ⟨hlt, h⟩
    · exact .inr (.inr ⟨.inr hle, s, (Host.Outcome.next.inj h).symm, .inl ⟨id, rfl⟩⟩)
    · exact .inl ⟨by simp [Instr.length], hlt, h⟩
  | wait60 => exact .inr (.inr ⟨.inl rfl, s, (Host.Outcome.next.inj h).symm, .inl ⟨id, rfl⟩⟩)
  | wait50 => exact .inr (.inr ⟨.inl rfl, s, (Host.Outcome.next.inj h).symm, .inl ⟨id, rfl⟩⟩)
  | eod =>
    rcases afterFlush_eq_next h with ⟨u, hu, ht⟩ | ⟨u, hu, ht⟩
    · exact .inr (.inr ⟨.inl rfl, u, ht, .inr ⟨trivial, hu⟩⟩)
    · exact .inr (.inl ⟨.inl rfl, trivial, u, hu, ht⟩)
  | waitS n => exact .inr (.inr ⟨.inl rfl, s, (Host.Outcome.next.inj h).symm, .inl ⟨id, rfl⟩⟩)
  | unknown op => exact .inr (.inr ⟨.inl rfl, s, (Host.Outcome.next.inj h).symm, .inl ⟨id, rfl⟩⟩)

end Sys2Proof.Machine
end

