-- ==== Sys2Proof/Laws/Memory.lean ====
section
/-!
SUPPORT. The laws of the input stream space: read after write, the canonical form, and what a MemRead can answer.
-/
namespace Sys2Proof.Machine

theorem Memory.read_write_same (m : Memory) (a : Nat) (v : Byte) :
    Memory.read (Memory.write m a v) a = some v := by
  induction m with
  | nil => simp [Memory.write, Memory.read]
  | cons x rest ih =>
    obtain ⟨b, w⟩ := x
    simp only [Memory.write]
    split
    · simp [Memory.read]
    · split
      · simp [Memory.read]
      · rename_i h1 h2
        simp [Memory.read, h2, ih]

theorem Memory.read_write_other (m : Memory) (a b : Nat) (v : Byte) (h : b ≠ a) :
    Memory.read (Memory.write m a v) b = Memory.read m b := by
  induction m with
  | nil => simp [Memory.write, Memory.read, h]
  | cons x rest ih =>
    obtain ⟨c, w⟩ := x
    simp only [Memory.write]
    split
    · simp [Memory.read, h]
    · split
      · rename_i h1 h2
        subst h2
        simp [Memory.read, h]
      · simp [Memory.read, ih]

/-- Every cell of a written memory is the new one or an old one. -/
theorem Memory.mem_write {m : Memory} {a : Nat} {v : Byte} {x : Host.Cell}
    (h : x ∈ Memory.write m a v) : x = (a, v) ∨ x ∈ m := by
  induction m with
  | nil => simpa [Memory.write] using h
  | cons y rest ih =>
    obtain ⟨b, w⟩ := y
    simp only [Memory.write] at h
    split at h
    · simpa using h
    · split at h
      · rcases List.mem_cons.mp h with h | h
        · exact .inl h
        · exact .inr (List.mem_cons_of_mem _ h)
      · rcases List.mem_cons.mp h with h | h
        · exact .inr (h ▸ List.mem_cons_self)
        · rcases ih h with h | h
          · exact .inl h
          · exact .inr (List.mem_cons_of_mem _ h)

theorem Memory.wf_write {m : Memory} (a : Nat) (v : Byte) (h : Memory.wf m) :
    Memory.wf (Memory.write m a v) := by
  induction m with
  | nil => simp [Memory.wf, Memory.write]
  | cons y rest ih =>
    obtain ⟨b, w⟩ := y
    obtain ⟨hb, hrest⟩ := List.pairwise_cons.mp h
    simp only [Memory.write]
    split
    · rename_i hlt
      refine List.pairwise_cons.mpr ⟨?_, h⟩
      intro x hx
      rcases List.mem_cons.mp hx with hx | hx
      · subst hx
        exact hlt
      · exact Nat.lt_trans hlt (hb x hx)
    · split
      · rename_i heq
        subst heq
        exact List.pairwise_cons.mpr ⟨hb, hrest⟩
      · rename_i h1 h2
        refine List.pairwise_cons.mpr ⟨?_, ih hrest⟩
        intro x hx
        rcases Memory.mem_write hx with hx | hx
        · subst hx
          exact Nat.lt_of_le_of_ne (Nat.le_of_not_lt h1) (Ne.symm h2)
        · exact hb x hx

theorem Memory.wf_load {m : Memory} (a : Nat) (bytes : List Byte) (h : Memory.wf m) :
    Memory.wf (Memory.load m a bytes) := by
  induction bytes generalizing m a with
  | nil => exact h
  | cons v rest ih => exact ih (a + 1) (Memory.wf_write a v h)

theorem Memory.read_load_below (m : Memory) (a b : Nat) (bytes : List Byte) (h : b < a) :
    Memory.read (Memory.load m a bytes) b = Memory.read m b := by
  induction bytes generalizing m a with
  | nil => rfl
  | cons v rest ih =>
    rw [Memory.load, ih _ _ (by omega), Memory.read_write_other _ _ _ _ (by omega)]

/-- A loaded byte reads back. -/
theorem Memory.read_load (m : Memory) (a i : Nat) (bytes : List Byte) (h : i < bytes.length) :
    Memory.read (Memory.load m a bytes) (a + i) = some bytes[i] := by
  induction bytes generalizing m a i with
  | nil => simp at h
  | cons v rest ih =>
    cases i with
    | zero =>
      show Memory.read (Memory.load (Memory.write m a v) (a + 1) rest) a = some v
      rw [Memory.read_load_below _ _ _ _ (by omega), Memory.read_write_same]
    | succ j =>
      have := ih (Memory.write m a v) (a + 1) j (by simpa using h)
      rw [Memory.load, show a + (j + 1) = a + 1 + j by omega, this]
      rfl

theorem State.reset_src_wf : Memory.wf State.reset.src := List.Pairwise.nil

/-- The loader's placing of bytes keeps the canonical form. -/
theorem placeAtPc_src_wf (bytes : List Byte) (s : State) (h : Memory.wf s.src) :
    Memory.wf (placeAtPc bytes s).src := Memory.wf_load s.pc bytes h

/-- Everything a read of one byte can answer: a byte inside the bounds that the loader placed. -/
theorem srcByte_eq_some {s : State} {off : Nat} {b : Byte} :
    srcByte s off = some b ↔
      s.cfg.startOffset ≤ off ∧ off < s.cfg.maxOffset ∧ Memory.read s.src off = some b := by
  unfold srcByte
  split
  · rename_i h
    simp [h.1, h.2]
  · rename_i h
    simp only [reduceCtorEq, false_iff]
    exact fun h' => h ⟨h'.1, h'.2.1⟩

/-- A MemRead of `n + 1` bytes is a byte and a MemRead of `n`. -/
theorem memRead_succ_eq_some {s : State} {addr n : Nat} {bytes : List Byte} :
    memRead s addr (n + 1) = some bytes ↔
      ∃ b bs, bytes = b :: bs ∧ srcByte s addr = some b ∧ memRead s (addr + 1) n = some bs := by
  rw [memRead]
  split
  · rename_i b bs h1 h2
    simp only [Option.some.injEq, h1, h2]
    constructor
    · rintro rfl
      exact ⟨b, bs, rfl, rfl, rfl⟩
    · rintro ⟨b', bs', rfl, rfl, rfl⟩
      rfl
  · rename_i h
    simp only [reduceCtorEq, false_iff]
    rintro ⟨b, bs, -, h1, h2⟩
    exact h b bs h1 h2

/-- A MemRead that answers gives as many bytes as were asked for, all below `MAX_OFFSET` (R52). -/
theorem memRead_length {s : State} {addr n : Nat} {bytes : List Byte}
    (h : memRead s addr n = some bytes) :
    bytes.length = n ∧ (0 < n → s.cfg.startOffset ≤ addr ∧ addr + n ≤ s.cfg.maxOffset) := by
  induction n generalizing addr bytes with
  | zero =>
    obtain rfl : [] = bytes := by simpa [memRead] using h
    simp
  | succ n ih =>
    obtain ⟨b, bs, rfl, hb, hbs⟩ := memRead_succ_eq_some.mp h
    obtain ⟨hlen, hbound⟩ := ih hbs
    obtain ⟨h1, h2, -⟩ := srcByte_eq_some.mp hb
    refine ⟨by simp [hlen], fun _ => ⟨h1, ?_⟩⟩
    cases n with
    | zero => omega
    | succ n =>
      have := hbound (by omega)
      omega

end Sys2Proof.Machine
end

