-- ==== Sys2Proof/Laws/PerInstr.lean ====
section
/-!
SUPPORT. The per-command family EncodeLength: the encoding of a command has the command's length (R78), one lemma
for each constructor.
-/
namespace Sys2Proof.Laws.EncodeLength

/-- The encoding of `i` is as long as `i`, under every opcode map. -/
def Statement (i : Instr) : Prop := ∀ m : OpMap, (encode m i).length = i.length

theorem skip1 (b : Byte) : Statement (.skip1 b) := fun _ => rfl
theorem psgwL (sel : BitVec 3) (val : Nibble) : Statement (.psgwL sel val) := fun _ => rfl
theorem psgwD (ignored : BitVec 1) (hi : BitVec 6) : Statement (.psgwD ignored hi) := fun _ => rfl
theorem waitN (count : BitVec 16) : Statement (.waitN count) := fun _ => rfl
theorem wait60 : Statement .wait60 := fun _ => rfl
theorem wait50 : Statement .wait50 := fun _ => rfl
theorem eod : Statement .eod := fun _ => rfl
theorem waitS (n : Nibble) : Statement (.waitS n) := fun _ => rfl
theorem unknown (op : Byte) : Statement (.unknown op) := fun _ => rfl

end Sys2Proof.Laws.EncodeLength
end

