-- ==== Sys2Proof/Laws/Step.lean ====
section
/-!
SUPPORT. Everything a step can do, said once (spec/42_stream_control.md R140).
-/
namespace Sys2Proof.Machine

/-- Everything the fetch can answer when it answers a command: the opcode byte and the operand bytes the command
reads are in place, and the decoder gives the command from them, with zeros for an operand byte that is not read. -/
theorem fetch_eq_command {s : State} {i : Instr} (h : fetch s = .command i) :
    s.cfg.startOffset ≤ s.pc ∧ s.pc < s.cfg.maxOffset ∧
    ∃ op operands rest, srcByte s s.pc = some op ∧
      s.pc + commandLength s.cfg.ops op ≤ s.cfg.maxOffset ∧
      memRead s (s.pc + 1) (operandsRead (classify s.cfg.ops op)) = some operands ∧
      decode s.cfg.ops (op :: operands ++ operandsUnread (classify s.cfg.ops op))
        = .command i rest := by
  unfold fetch at h
  split at h
  · cases h
  · rename_i hb
    have hb : s.cfg.startOffset ≤ s.pc ∧ s.pc < s.cfg.maxOffset := Decidable.not_not.mp hb
    split at h
    · cases h
    · rename_i op hop
      simp only at h
      split at h
      · rename_i hw
        split at h
        · cases h
        · rename_i operands hoperands
          split at h
          · rename_i j rest hdec
            cases h
            exact ⟨hb.1, hb.2, op, operands, rest, hop, wellFramed_iff.mp hw, hoperands, hdec⟩
          · cases h
      · cases h

/-- The operand bytes that are read and those that are not make up the command (R53, R78). -/
theorem operandsRead_add_unread (c : CommandClass) :
    1 + (operandsRead c + (operandsUnread c).length) = c.length := by
  cases c <;> rfl

/-- No byte is skipped but SKIP1's operand byte (R53). -/
theorem operandsUnread_eq_nil {c : CommandClass} (h : c ≠ .skipSecondaryByte) :
    operandsUnread c = [] := by
  cases c <;> first | rfl | exact absurd rfl h

/-- SKIP1 does the same whatever its operand byte (R142). -/
theorem exec_skip1_eq (a b : Byte) (s : State) : exec (.skip1 a) s = exec (.skip1 b) s := rfl

/-- Everything a step with a next state can be: a halted state staying, the exhaustion step, a command run, or
`Framing` taken. -/
theorem step_eq_next {s t : State} (h : step s = .next t) :
    configValid s.cfg = true ∧
    ((s.status ≠ .running ∧ t = s) ∨
     (s.status = .running ∧ s.pc = s.cfg.maxOffset ∧ exhaustionStep s = .next t) ∨
     (s.status = .running ∧ s.pc ≠ s.cfg.maxOffset ∧ ∃ i, fetch s = .command i ∧ exec i s = .next t) ∨
     (s.status = .running ∧ s.pc ≠ s.cfg.maxOffset ∧ fetch s = .badlyFramed ∧
       t = raise (.framing s.pc) s)) := by
  unfold step at h
  split at h
  · cases h
  · rename_i hv
    refine ⟨by simpa using hv, ?_⟩
    split at h
    · rename_i hs
      cases h
      exact .inl ⟨hs, rfl⟩
    · rename_i hs
      have hs : s.status = .running := Decidable.not_not.mp hs
      split at h
      · rename_i hpc
        exact .inr (.inl ⟨hs, hpc, h⟩)
      · rename_i hpc
        split at h
        · rename_i i hi
          exact .inr (.inr (.inl ⟨hs, hpc, i, hi, h⟩))
        · rename_i hb
          cases h
          exact .inr (.inr (.inr ⟨hs, hpc, hb, rfl⟩))
        · cases h

/-- A command's meaning always has a next state: no command of this hardware stops. -/
theorem exec_total (i : Instr) (s : State) : ∃ t, exec i s = .next t := by
  have framed : ∀ (len : Nat) (body : Result), (∃ t, body = .next t) →
      ∃ t, ifFramed len s body = .next t := by
    intro len body hbody
    unfold ifFramed
    split
    · exact hbody
    · exact ⟨_, rfl⟩
  cases i with
  | skip1 b => exact framed _ _ ⟨_, rfl⟩
  | psgwL sel val => exact framed _ _ (afterFlush_total _ _)
  | psgwD ignored hi => exact framed _ _ (afterFlush_total _ _)
  | waitN count => exact framed _ _ ⟨_, rfl⟩
  | wait60 => exact ⟨_, rfl⟩
  | wait50 => exact ⟨_, rfl⟩
  | eod => exact afterFlush_total _ _
  | waitS n => exact ⟨_, rfl⟩
  | unknown op => exact ⟨_, rfl⟩

end Sys2Proof.Machine
end

