-- ==== Sys2Proof/Laws/Run.lean ====
section
/-!
SUPPORT. Runs of the host's machine, one step at a time, and the two ways a step of a running pass is chosen.
-/
namespace Sys2Proof.Machine

@[simp] theorem run_zero (s : State) : Host.Core.run Sys2Proof.core 0 s = .next s := rfl

/-- A run of any machine begins with its first step. -/
theorem core_run_succ_of_next {M : Host.Core} {k : Nat} {s t : M.State} (h : M.step s = .next t) :
    M.run (k + 1) s = M.run k t := by
  rw [Host.Core.run, h]

/-- A run of any machine with a next state has one after its first step. -/
theorem core_run_succ_eq_next {M : Host.Core} {k : Nat} {s u : M.State}
    (h : M.run (k + 1) s = .next u) : ∃ t, M.step s = .next t ∧ M.run k t = .next u := by
  rw [Host.Core.run] at h
  split at h
  · rename_i t ht
    exact ⟨t, ht, h⟩
  · cases h
  · cases h

/-- A run begins with its first step. -/
theorem run_succ_of_next {k : Nat} {s t : State} (h : step s = .next t) :
    Host.Core.run Sys2Proof.core (k + 1) s = Host.Core.run Sys2Proof.core k t :=
  core_run_succ_of_next (M := Sys2Proof.core) h

/-- A run with a next state has one after its first step. -/
theorem run_succ_eq_next {k : Nat} {s u : State}
    (h : Host.Core.run Sys2Proof.core (k + 1) s = .next u) :
    ∃ t : State, step s = .next t ∧ Host.Core.run Sys2Proof.core k t = .next u :=
  core_run_succ_eq_next (M := Sys2Proof.core) h

/-- What a proper configuration is, as propositions (D20, R5). -/
theorem configValid_iff {c : Config} :
    configValid c = true ↔
      c.startOffset ≤ c.maxOffset ∧ c.maxOffset ≤ c.srcLen ∧ 0 < c.tickSamples ∧ c.ops.wf = true := by
  simp [configValid, and_assoc]

/-- The exhaustion step is taken at `MAX_OFFSET` (R140, R141). -/
theorem step_of_exhausted {s : State} (hv : configValid s.cfg = true) (hr : s.status = .running)
    (hpc : s.pc = s.cfg.maxOffset) : step s = exhaustionStep s := by
  unfold step
  rw [if_neg (by simp [hv]), if_neg (by simp [hr]), if_pos hpc]

/-- Elsewhere the step is what the fetch finds (R140). -/
theorem step_of_fetch {s : State} (hv : configValid s.cfg = true) (hr : s.status = .running)
    (hpc : s.pc ≠ s.cfg.maxOffset) :
    step s =
      match fetch s with
      | .command i => exec i s
      | .badlyFramed => .next (raise (.framing s.pc) s)
      | .unreadable f => .fault f := by
  unfold step
  exact (if_neg (by simp [hv])).trans ((if_neg (by simp [hr])).trans (if_neg hpc))

end Sys2Proof.Machine
end

