-- ==== Sys2Proof/Tests/Slice0.lean ====
section
/-!
SUPPORT. Tests of one step on small states, with expected results from the spec's examples and vectors
(spec/95_test_vectors.md and the examples inside the rules), the smoke test of WellFormed, and for every statement
with hypotheses a witness that they can hold together.
-/
namespace Sys2Proof.Tests

open Sys2Proof Sys2Proof.Machine

/-- The state after reset on a stream from offset 0, with room for `room` bytes. -/
def pass (bytes : List Byte) (room : Nat) : State :=
  State.resetWith
    { configAtReset with srcLen := bytes.length, maxOffset := bytes.length, outCapacity := room }
    (Memory.load [] 0 bytes)

/-- The next state, if there is one. -/
def next? (r : Result) : Option State :=
  match r with
  | .next s => some s
  | .fault _ => none
  | .refused _ => none

/-- A stream whose source space is listed from offset 0 on is loaded. -/
theorem loaded_of_all {s : State}
    (h : ∀ off : Fin s.cfg.maxOffset, (Memory.read s.src off.val).isSome = true) : loaded s :=
  fun off _ hlt => Option.isSome_iff_exists.mp (h ⟨off, hlt⟩)

/-! ## WellFormed: each check refuses an ill-formed term -/

/-- UNKNOWN with the opcode byte of EOD. -/
theorem test_wf_refuses_recognised_unknown : Instr.wf OpMap.decided (.unknown 0x66#8) = false := by
  decide

/-- UNKNOWN with an opcode byte of the short-wait family. -/
theorem test_wf_refuses_family_unknown : Instr.wf OpMap.decided (.unknown 0x7F#8) = false := by
  decide

/-- Two parameters with one number. -/
theorem test_wf_refuses_repeated_opcode :
    OpMap.wf { OpMap.decided with wait60 := 0x63#8 } = false := by decide

/-- A parameter inside the short-wait family. -/
theorem test_wf_refuses_opcode_in_family :
    OpMap.wf { OpMap.decided with skip1 := 0x75#8 } = false := by decide

/-- A family that does not share one high nibble. -/
theorem test_wf_refuses_unaligned_family :
    OpMap.wf { OpMap.decided with waitShortBase := 0x78#8 } = false := by decide

theorem test_wf_accepts_decided_map : OpMap.wf OpMap.decided = true := by decide

theorem test_wf_accepts_unknown : Instr.wf OpMap.decided (.unknown 0xAA#8) = true := by decide

/-! ## Decode: bytes written out from R71, R73, R76 -/

theorem test_decode_skip1 :
    decode OpMap.decided [0b01001111#8, 0b01010000#8] = .command (.skip1 0x50#8) [] := by decide

/-- R81: 1 000 0101. -/
theorem test_decode_psgwL :
    decode OpMap.decided [0b01010000#8, 0b10000101#8] = .command (.psgwL 0#3 5#4) [] := by decide

/-- 0 x hhhhhh, with the ignored bit set. -/
theorem test_decode_psgwD :
    decode OpMap.decided [0b01010000#8, 0b01110000#8] = .command (.psgwD 1#1 0x30#6) [] := by decide

/-- R121: 61 DF 02. -/
theorem test_decode_waitN :
    decode OpMap.decided [0b01100001#8, 0b11011111#8, 0b00000010#8] = .command (.waitN 735#16) [] := by
  decide

theorem test_decode_wait60 : decode OpMap.decided [0b01100010#8] = .command .wait60 [] := by decide

theorem test_decode_wait50 : decode OpMap.decided [0b01100011#8] = .command .wait50 [] := by decide

theorem test_decode_eod : decode OpMap.decided [0b01100110#8] = .command .eod [] := by decide

theorem test_decode_waitS : decode OpMap.decided [0b01111111#8] = .command (.waitS 15#4) [] := by
  decide

theorem test_decode_unknown :
    decode OpMap.decided [0b01100100#8] = .command (.unknown 0x64#8) [] := by decide

theorem test_decode_rejects_nothing : decode OpMap.decided [] = .rejected .noOpcodeByte := by decide

theorem test_decode_rejects_cut_waitN :
    decode OpMap.decided [0x61#8, 0x00#8] = .rejected (.cutShort 3) := by decide

/-! ## One step for each command -/

/-- R53: SKIP1 with no byte placed after its opcode byte. -/
theorem test_skip1_operand_not_read :
    step { pass [0x4F#8, 0xFF#8] 64 with src := [(0, 0x4F#8)] }
      = .next { pass [0x4F#8, 0xFF#8] 64 with src := [(0, 0x4F#8)], pc := 2 } := by rfl

/-- R142: 4F FF gives PC + 2. -/
theorem test_skip1 :
    step (pass [0x4F#8, 0xFF#8] 64) = .next { pass [0x4F#8, 0xFF#8] 64 with pc := 2 } := by rfl

/-- R103: TONE1 = C1, then 50 AF gives TONE1 = C3, LATCH = 2. -/
theorem test_psgwL_tone :
    (next? (step { pass [0x50#8, 0xAF#8] 64 with
        cur := { Regs.zero with tone1 := 0xC1#8 } })).map (fun t => (t.cur, t.latch, t.pc))
      = some ({ Regs.zero with tone1 := 0xC3#8 }, 2#3, 2) := by decide

/-- R105: 50 90 gives VOL0 = 15. -/
theorem test_psgwL_volume :
    (next? (step (pass [0x50#8, 0x90#8] 64))).map (fun t => (t.cur, t.latch))
      = some ({ Regs.zero with vol0 := 15#4 }, 1#3) := by decide

/-- V1 (C2): latch nibble 5, then data byte 30 gives TONE0 = C1. -/
theorem test_psgwD_tone :
    (next? (step { pass [0x50#8, 0x30#8] 64 with
        cur := { Regs.zero with tone0 := 0x01#8 } })).map (fun t => (t.cur, t.latch))
      = some ({ Regs.zero with tone0 := 0xC1#8 }, 0#3) := by decide

/-- R107: with LATCH = 6 a data byte still flushes the pending tick and moves PC. -/
theorem test_psgwD_discarded :
    (next? (step { pass [0x50#8, 0x3F#8] 64 with latch := 6#3, pendingDelay := 735 })).map
        (fun t => (t.cur, t.out, t.pc))
      = some (Regs.zero, [0x40#8], 2) := by decide

/-- R121: 61 DF 02 adds 735. -/
theorem test_waitN :
    (next? (step (pass [0x61#8, 0xDF#8, 0x02#8] 64))).map (fun t => (t.pendingDelay, t.pc))
      = some (735, 3) := by decide

/-- R122: 62 from PENDING_DELAY = 16 gives 751. -/
theorem test_wait60 :
    (next? (step { pass [0x62#8] 64 with pendingDelay := 16 })).map (·.pendingDelay) = some 751 := by
  decide

/-- R123: 63 from 0 gives 882. -/
theorem test_wait50 :
    (next? (step (pass [0x63#8] 64))).map (·.pendingDelay) = some 882 := by decide

/-- R124: 7F is a wait of 16 samples. -/
theorem test_waitS :
    (next? (step (pass [0x7F#8] 64))).map (fun t => (t.pendingDelay, t.pc)) = some (16, 1) := by
  decide

/-- S7 as C3 resolves it: two ticks pending and nothing changed make the single byte 80. -/
theorem test_eod :
    (next? (step { pass [0x66#8] 64 with pendingDelay := 1470 })).map
        (fun t => (t.out, t.status, t.pendingDelay, t.pc))
      = some ([0x80#8], .doneEnd, 0, 1) := by decide

/-- R172: without room the pass stops and PC stays at the EOD. -/
theorem test_eod_without_room :
    (next? (step (pass [0x66#8] 0))).map (fun t => (t.out, t.status, t.pc))
      = some ([], .stoppedCapacity, 0) := by decide

/-- R146: the offset and the opcode byte are recorded, and one byte is consumed. -/
theorem test_unknown :
    (next? (step (pass [0xAA#8, 0x66#8] 64))).map (fun t => (t.unknownLog, t.pc, t.status))
      = some ([(0, 0xAA#8)], 1, .running) := by decide

/-- R141: an empty stream makes the single frame 00. -/
theorem test_exhaustion :
    (next? (step (pass [] 64))).map (fun t => (t.out, t.status, t.pc))
      = some ([0x00#8], .doneExhausted, 0) := by decide

/-- R191: an operand byte at MAX_OFFSET. -/
theorem test_framing :
    (next? (step { pass [0x62#8, 0x50#8] 64 with pc := 1 })).map
        (fun t => (t.status, t.errOffset, t.pc))
      = some (.faultFraming, 1, 1) := by decide

/-- R85, R86: VOL0 = 15 alone sets the flag of the first volume pair, with VOL0 in the low nibble. -/
theorem test_frame_of_one_volume :
    firstFrame { pass [] 64 with cur := { Regs.zero with vol0 := 15#4 } } = [0x10#8, 0x0F#8] := by
  decide

/-- U6: START_OFFSET above MAX_OFFSET. -/
theorem test_bad_configuration_refused :
    step (State.resetWith { configAtReset with startOffset := 1 } []) = .refused .badConfiguration := by
  rfl

/-- R5: TICK_SAMPLES is positive. -/
theorem test_zero_tick_refused :
    step (State.resetWith { configAtReset with tickSamples := 0 } []) = .refused .badConfiguration := by
  rfl

/-! ## Witnesses -/

theorem witness_DecodeOfEncodeIsTheCommand :
    OpMap.wf OpMap.decided = true ∧ Instr.wf OpMap.decided (.psgwD 1#1 0x3F#6) = true := by decide

theorem witness_DecodedBytesAreTheEncoding :
    OpMap.wf OpMap.decided = true ∧
      decode OpMap.decided [0x50#8, 0x7F#8, 0x66#8] = .command (.psgwD 1#1 0x3F#6) [0x66#8] := by
  decide

theorem witness_DecoderRejectsOnlyShortInput :
    decode OpMap.decided [0x61#8, 0xFF#8, 0xFF#8] = .command (.waitN 0xFFFF#16) [] := by decide

/-- Every class, and both sides of both ends of the short-wait family. -/
theorem witness_EveryOpcodeByteHasItsOneClass :
    OpMap.wf OpMap.decided = true ∧
      [0x4F#8, 0x50#8, 0x61#8, 0x62#8, 0x63#8, 0x66#8, 0x6F#8, 0x70#8, 0x7F#8, 0x80#8].map
          (classify OpMap.decided)
        = [.skipSecondaryByte, .registerWrite, .waitSamples, .wait60, .wait50, .endOfData,
            .unknown, .waitShort, .waitShort, .unknown] := by decide

theorem witness_StepRunsTheDecodedCommand :
    let s := pass [0x50#8, 0x90#8] 64
    configValid s.cfg = true ∧ s.status = .running ∧
      memRead s s.pc 2 = some [0x50#8, 0x90#8] ∧
      decode s.cfg.ops [0x50#8, 0x90#8] = .command (.psgwL 1#3 0#4) [] := by decide

theorem witness_PlacedTableWordRunsNext :
    0 < State.reset.cfg.tickSamples ∧ decodeTableWord 16 0x9050 = some (.psgwL 1#3 0#4) := by
  decide

theorem witness_ExhaustionFlushesAndHalts :
    let s := pass [] 1
    configValid s.cfg = true ∧ s.status = .running ∧ s.pc = s.cfg.maxOffset ∧ flushFits s = true := by
  decide

theorem witness_ExhaustionFlushesAndHalts_no_room :
    let s := pass [] 0
    configValid s.cfg = true ∧ s.status = .running ∧ s.pc = s.cfg.maxOffset ∧ flushFits s = false := by
  decide

theorem witness_BadlyFramedStepRaisesFraming :
    let s := pass [0x61#8, 0x00#8] 64
    configValid s.cfg = true ∧ s.status = .running ∧ s.cfg.startOffset ≤ s.pc ∧
      s.pc < s.cfg.maxOffset ∧ Memory.read s.src s.pc = some 0x61#8 ∧
      s.cfg.maxOffset < s.pc + commandLength s.cfg.ops 0x61#8 := by decide

theorem witness_HaltedStatesAreAbsorbing :
    configValid State.reset.cfg = true ∧ halted { State.reset with status := .doneEnd } :=
  ⟨by decide, by unfold halted; decide⟩

theorem loaded_pass : loaded (pass [0x50#8, 0x90#8] 64) :=
  loaded_of_all (by decide)

theorem witness_LoadedStatesAlwaysStep :
    let s := pass [0x50#8, 0x90#8] 64
    configValid s.cfg = true ∧ s.cfg.startOffset ≤ s.pc ∧ s.pc ≤ s.cfg.maxOffset ∧ loaded s :=
  ⟨by decide, by decide, by decide, loaded_pass⟩

theorem witness_EachStepHaltsOrAdvances :
    let s := pass [0x61#8, 0xDF#8, 0x02#8] 64
    s.status = .running ∧ s.pc ≤ s.cfg.maxOffset ∧
      step s = .next { s with pendingDelay := 735, pc := 3 } :=
  ⟨rfl, by decide, rfl⟩

theorem witness_EveryPassHalts :
    configValid (pass [0x50#8, 0x90#8] 64).cfg = true ∧
      loaded (State.resetWith (pass [0x50#8, 0x90#8] 64).cfg (pass [0x50#8, 0x90#8] 64).src) :=
  ⟨by decide, loaded_pass⟩

theorem witness_ResetHasTheInvariant : configValid configAtReset = true := by decide

theorem inv_pass : Inv (pass [0x50#8, 0x90#8] 64) where
  startLePc := by decide
  pcLeMax := by decide
  outLeCapacity := by decide
  doneEmitted := fun _ => ⟨rfl, by decide⟩
  framingOffset := fun h => nomatch h
  noErrOffset := fun _ => rfl

theorem witness_StepKeepsTheInvariant :
    Inv (pass [0x50#8, 0x90#8] 64) ∧ ∃ t, step (pass [0x50#8, 0x90#8] 64) = .next t :=
  ⟨inv_pass, _, rfl⟩

theorem witness_StepKeepsReplayEqualToPrev :
    let s := { pass [0x66#8] 64 with
      out := [0x50#8, 0x0F#8]
      prev := { Regs.zero with vol0 := 15#4 } }
    replayIsPrev s ∧ ∃ t, step s = .next t :=
  ⟨⟨_, rfl, by decide⟩, _, rfl⟩

theorem witness_FinishedPassReplaysToCur :
    let s := pass [0x50#8, 0x90#8, 0x66#8] 64
    ∃ t : State, Host.Core.run Sys2Proof.core 2 s = .next t ∧ t.status = .doneEnd :=
  ⟨_, rfl, rfl⟩

theorem witness_FinishedPassReplaysToCur_exhausted :
    ∃ t : State, Host.Core.run Sys2Proof.core 1 (pass [] 64) = .next t ∧ t.status = .doneExhausted :=
  ⟨_, rfl, rfl⟩

theorem witness_RunsConserveDelay :
    let s := { pass [0x62#8] 64 with out := [0x50#8, 0x0F#8] }
    wholeFrames s.out = true ∧ ∃ t : State, Host.Core.run Sys2Proof.core 2 s = .next t :=
  ⟨by decide, _, rfl⟩

theorem witness_MoreRoomOnlyExtendsTheOutput :
    let s := pass [0x66#8] 1
    s.cfg.outCapacity ≤ 64 ∧ wholeFrames s.out = true ∧
      (∃ t : State, Host.Core.run Sys2Proof.core 1 s = .next t ∧ t.status ≠ .stoppedCapacity) ∧
      ∃ u : State, Host.Core.run Sys2Proof.core 1
        { s with cfg := { s.cfg with outCapacity := 64 } } = .next u :=
  ⟨by decide, by decide, ⟨_, rfl, by decide⟩, _, rfl⟩

theorem witness_MoreRoomOnlyExtendsTheOutput_stopped :
    let s := pass [0x66#8] 0
    (∃ t : State, Host.Core.run Sys2Proof.core 1 s = .next t ∧ t.status = .stoppedCapacity) ∧
      ∃ u : State, Host.Core.run Sys2Proof.core 1
        { s with cfg := { s.cfg with outCapacity := 64 } } = .next u :=
  ⟨⟨_, rfl, rfl⟩, _, rfl⟩

theorem witness_StepKeepsConfigurationAndSource :
    let s := pass [0x62#8] 64
    Memory.wf s.src ∧ ∃ t, step s = .next t :=
  ⟨by decide, _, rfl⟩

theorem witness_OutputIsAppendOnlyAndNeverRead :
    let s := { pass [0x66#8] 2 with out := [0x00#8] }
    (∃ t, step s = .next t) ∧ s.out.length ≤ s.cfg.outCapacity ∧ [0xFF#8].length = s.out.length :=
  ⟨⟨_, rfl⟩, by decide, rfl⟩

theorem witness_BytesOutsideTheBoundsAreNeverRead :
    let s := pass [0x62#8] 64
    (∀ off, s.cfg.startOffset ≤ off → off < s.cfg.maxOffset →
      Memory.read [(0, 0x62#8), (1, 0xFF#8)] off = Memory.read s.src off) ∧
    ∃ t, step s = .next t :=
  ⟨fun off _ h => match off, h with
    | 0, _ => rfl, _, rfl⟩

/-- SKIP1 with another operand byte, and WAITN with its operands at its last offset. -/
theorem witness_StepReadsOnlyItsListedBytes :
    (let s := pass [0x4F#8, 0xFF#8] 64
     Memory.read s.src s.pc = some 0x4F#8 ∧
      (∀ off, s.pc ≤ off →
        off < s.pc + (if 0x4F#8 = s.cfg.ops.skip1 then 1 else commandLength s.cfg.ops 0x4F#8) →
          Memory.read [(0, 0x4F#8), (1, 0x00#8)] off = Memory.read s.src off) ∧
      ∃ t, step s = .next t) ∧
    (let s := pass [0x61#8, 0xDF#8, 0x02#8] 64
     Memory.read s.src s.pc = some 0x61#8 ∧
      (∀ off, s.pc ≤ off →
        off < s.pc + (if 0x61#8 = s.cfg.ops.skip1 then 1 else commandLength s.cfg.ops 0x61#8) →
          Memory.read [(0, 0x61#8), (1, 0xDF#8), (2, 0x02#8), (3, 0x00#8)] off
            = Memory.read s.src off) ∧
      ∃ t, step s = .next t) :=
  ⟨⟨rfl, fun off _ h => match off, h with
      | 0, _ => rfl, _, rfl⟩,
    rfl, fun off _ h => match off, h with
      | 0, _ => rfl
      | 1, _ => rfl
      | 2, _ => rfl, _, rfl⟩

theorem witness_StepReadsOnlyItsListedBytes_exhausted :
    (pass [] 64).pc = (pass [] 64).cfg.maxOffset ∧ ∃ t, step (pass [] 64) = .next t :=
  ⟨rfl, _, rfl⟩

theorem witness_UnknownLogIsNeverRead : ∃ t, step (pass [0xAA#8] 64) = .next t := ⟨_, rfl⟩

/-- The hypotheses, at the two sides of the bound test of a Register write. -/
theorem witness_ConditionsEachCommandRaises_framing :
    (let s := pass [0x50#8] 64
     0 < s.cfg.tickSamples ∧ s.status = .running ∧
      ∃ t, exec (.psgwL 1#3 0#4) s = .next t ∧ t.status = .faultFraming) ∧
    (let s := pass [0x50#8, 0x90#8] 64
     ∃ t, exec (.psgwL 1#3 0#4) s = .next t ∧ t.status = .running) :=
  ⟨⟨by decide, rfl, _, rfl, rfl⟩, _, rfl, rfl⟩

/-- The hypotheses, at the two sides of the capacity test of EOD, and on an UNKNOWN. -/
theorem witness_ConditionsEachCommandRaises :
    (let s := pass [0x66#8] 0
     0 < s.cfg.tickSamples ∧ s.status = .running ∧
      ∃ t, exec .eod s = .next t ∧ t.status = .stoppedCapacity) ∧
    (let s := pass [0x66#8] 1
     ∃ t, exec .eod s = .next t ∧ t.status = .doneEnd) ∧
    ∃ t, exec (.unknown 0xAA#8) (pass [0xAA#8] 1) = .next t ∧ t.unknownLog ≠ [] :=
  ⟨⟨by decide, rfl, _, rfl, rfl⟩, ⟨_, rfl, rfl⟩, _, rfl, by decide⟩

theorem witness_WritersOfTheRegisterFilesAndOutput :
    (∃ t, exec .wait60 (pass [0x62#8] 64) = .next t) ∧
      (∀ sel val, Instr.wait60 ≠ .psgwL sel val) ∧ (∀ b hi, Instr.wait60 ≠ .psgwD b hi) ∧
      ¬flushesIn .wait60 (pass [0x62#8] 64) :=
  ⟨⟨_, rfl⟩, fun _ _ h => (nomatch h), fun _ _ h => (nomatch h), id⟩

theorem witness_ChangeFlagsCompareStoredValues :
    let s := { pass [] 2 with cur := { Regs.zero with vol0 := 15#4 } }
    flush s = .ok (flushed s) := by decide

theorem witness_HeaderAnnouncesItsPayload :
    3 < 4 ∧ headerByte 3 ⟨true, false, false, false, true, true⟩ = 0b11110001#8 := by decide

theorem witness_FlushIsItsClosedForm :
    let s := { pass [] 2 with pendingDelay := 2940 }
    0 < s.cfg.tickSamples ∧ flushFits s = true := by decide

theorem witness_FlushTruncatesAtAFrameBoundary :
    let s := { pass [] 1 with pendingDelay := 2940 }
    0 < s.cfg.tickSamples ∧ flushFits s = false ∧ fits (firstFrame s).length s = true := by
  decide

theorem witness_FlushTruncatesAtAFrameBoundary_first :
    let s := { pass [] 1 with cur := { Regs.zero with vol0 := 15#4 } }
    0 < s.cfg.tickSamples ∧ flushFits s = false ∧ fits (firstFrame s).length s = false := by
  decide

theorem witness_FlushReadsAndWritesItsOwnState :
    let s := { pass [] 2 with pendingDelay := 2940 }
    let u := { s with latch := 3#3, pc := 9, unknownLog := [(0, 0xAA#8)], src := [(4, 0x66#8)] }
    u ≠ s ∧ u.cur = s.cur ∧ u.prev = s.prev ∧ u.pendingDelay = s.pendingDelay ∧
      u.out.length = s.out.length ∧ u.cfg.tickSamples = s.cfg.tickSamples ∧
      u.cfg.outCapacity = s.cfg.outCapacity ∧ flush s = .ok (flushed s) := by decide

theorem witness_FlushReadsAndWritesItsOwnState_truncated :
    flush (pass [] 0) = .truncated (pass [] 0) := by decide

theorem witness_PrevFollowsTheFirstFrame :
    let s := { pass [] 2 with cur := { Regs.zero with vol0 := 15#4 } }
    flush s = .ok (flushed s) := by decide

theorem witness_PrevFollowsTheFirstFrame_truncated :
    (let s := { pass [] 1 with cur := { Regs.zero with vol0 := 15#4 } }
     flush s = .truncated s ∧ fits (firstFrame s).length s = false) ∧
    (let s := { pass [] 2 with cur := { Regs.zero with vol0 := 15#4 }, pendingDelay := 2940 }
     (∃ t, flush s = .truncated t) ∧ fits (firstFrame s).length s = true) :=
  ⟨by decide, ⟨_, rfl⟩, by decide⟩

theorem witness_FlushTurnsSamplesIntoTicks :
    let s := { pass [] 2 with pendingDelay := 3000 }
    0 < s.cfg.tickSamples ∧ flush s = .ok (flushed s) := by decide

theorem witness_SecondFlushWritesNoPayload :
    let s := { pass [] 4 with cur := { Regs.zero with vol0 := 15#4 } }
    0 < s.cfg.tickSamples ∧ flush s = .ok (flushed s) ∧
      (∃ u, flush (flushed s) = .ok u) ∧
      ∃ u, flush { flushed s with pendingDelay := 2940 } = .ok u :=
  ⟨by decide, by decide, ⟨_, rfl⟩, _, rfl⟩

theorem witness_FourTicksMakeTwoFrames :
    let s := { pass [] 2 with pendingDelay := 2940 }
    0 < s.cfg.tickSamples ∧ s.cur = s.prev ∧ s.pendingDelay = 4 * s.cfg.tickSamples ∧
      s.out.length + 2 ≤ s.cfg.outCapacity := by decide

theorem witness_WaitsAddTheirSamples :
    let s := pass [0x61#8, 0xDF#8, 0x02#8] 64
    s.pc + 3 ≤ s.cfg.maxOffset := by decide

theorem witness_WaitNCountIsLittleEndian :
    let s := pass [0x61#8, 0xDF#8, 0x02#8] 64
    configValid s.cfg = true ∧ s.status = .running ∧ s.cfg.startOffset ≤ s.pc ∧
      s.pc + 3 ≤ s.cfg.maxOffset ∧ Memory.read s.src s.pc = some s.cfg.ops.waitN ∧
      Memory.read s.src (s.pc + 1) = some 0xDF#8 ∧ Memory.read s.src (s.pc + 2) = some 0x02#8 := by
  decide

theorem witness_SkipMovesOnlyPc :
    let s := pass [0x4F#8, 0xFF#8] 64
    s.pc + 2 ≤ s.cfg.maxOffset := by decide

/-- The operand byte absent, at the last offset that the bound test passes. -/
theorem witness_SkipNeedsNoOperandByte :
    let s := { pass [0x4F#8, 0xFF#8] 64 with src := [(0, 0x4F#8)] }
    configValid s.cfg = true ∧ s.status = .running ∧ s.cfg.startOffset ≤ s.pc ∧
      s.pc + 2 ≤ s.cfg.maxOffset ∧ Memory.read s.src s.pc = some s.cfg.ops.skip1 ∧
      Memory.read s.src (s.pc + 1) = none := by decide

theorem witness_EodFlushesAndHalts :
    let s := { pass [0x66#8] 2 with pendingDelay := 2940 }
    0 < s.cfg.tickSamples ∧ flushFits s = true := by decide

theorem witness_EodWithoutRoomStops :
    let s := { pass [0x66#8] 1 with pendingDelay := 2940 }
    0 < s.cfg.tickSamples ∧ flushFits s = false := by decide

/-- Both the commands of two bytes and the one of three, at the last offset where each is cut. -/
theorem witness_BadlyFramedCommandsOnlyFault :
    (let s := pass [0x50#8] 64
     1 < (Instr.psgwL 1#3 0#4).length ∧ s.cfg.maxOffset < s.pc + (Instr.psgwL 1#3 0#4).length) ∧
    (let s := pass [0x61#8, 0x00#8] 64
     1 < (Instr.waitN 0#16).length ∧ s.cfg.maxOffset < s.pc + (Instr.waitN 0#16).length) := by
  decide

/-- A Register write with three ticks and some samples pending, and exactly the room for its frame. -/
def writing (latch : BitVec 3) : State :=
  { pass [0x50#8, 0x90#8] 1 with latch := latch, pendingDelay := 2300 }

theorem room_writing (latch : BitVec 3) : roomToWrite (writing latch) :=
  .inr (by revert latch; decide)

theorem witness_LatchByteWritesToneLowBits :
    0 < (writing 0#3).cfg.tickSamples ∧ (writing 0#3).pc + 2 ≤ (writing 0#3).cfg.maxOffset ∧
      (writing 0#3).pendingDelay ≠ 0 ∧ roomToWrite (writing 0#3) :=
  ⟨by decide, by decide, by decide, room_writing _⟩

/-- The other way to have room: nothing pending, and no room at all. -/
theorem witness_LatchByteWritesNoise :
    let s := pass [0x50#8, 0xE4#8] 0
    0 < s.cfg.tickSamples ∧ s.pc + 2 ≤ s.cfg.maxOffset ∧ roomToWrite s :=
  ⟨by decide, by decide, .inl rfl⟩

theorem witness_LatchByteWritesInvertedVolume :
    0 < (writing 1#3).cfg.tickSamples ∧ (writing 1#3).pc + 2 ≤ (writing 1#3).cfg.maxOffset ∧
      roomToWrite (writing 1#3) :=
  ⟨by decide, by decide, room_writing _⟩

theorem witness_DataByteWritesToneHighBits :
    ∀ k : Fin 3, 0 < (writing (BitVec.ofNat 3 (2 * k.val))).cfg.tickSamples ∧
      (writing (BitVec.ofNat 3 (2 * k.val))).pc + 2
        ≤ (writing (BitVec.ofNat 3 (2 * k.val))).cfg.maxOffset ∧
      roomToWrite (writing (BitVec.ofNat 3 (2 * k.val))) :=
  fun _ => ⟨(by decide : 0 < 735), (by decide : 0 + 2 ≤ 2), room_writing _⟩

theorem witness_DataByteOnFourBitRegisterIsDiscarded :
    (0 < (writing 1#3).cfg.tickSamples ∧ (writing 1#3).pc + 2 ≤ (writing 1#3).cfg.maxOffset ∧
      roomToWrite (writing 1#3) ∧ (writing 1#3).latch = 1#3) ∧
    (roomToWrite (writing 7#3) ∧ (writing 7#3).latch = 7#3) :=
  ⟨⟨by decide, by decide, room_writing _, rfl⟩, room_writing _, rfl⟩

theorem witness_RegisterWriteWithoutRoomIsAbandoned :
    let s := { pass [0x50#8, 0x90#8] 1 with pendingDelay := 2940 }
    0 < s.cfg.tickSamples ∧ s.pc + 2 ≤ s.cfg.maxOffset ∧ s.pendingDelay ≠ 0 ∧
      flushFits s = false := by decide

theorem witness_ToneWriteStoresPeriodBitsNineToTwo :
    let s := pass [0x50#8, 0x8F#8, 0x50#8, 0x3F#8] 64
    s.pendingDelay = 0 ∧ s.pc + 4 ≤ s.cfg.maxOffset := by decide

/-- Reset registers are what the block stores for wire registers of period 0 and attenuation 15 (R38). -/
theorem witness_StoredRegistersTrackTheWire :
    let w : WireRegs := ⟨0#10, 15#4, 0#10, 15#4, 0#10, 15#4, 0#4, 15#4, .tone0⟩
    (let s := pass [0x50#8, 0x90#8] 64
     s.status = .running ∧ s.cur = w.stored ∧ selectReg s.latch = w.latched ∧
      ∃ t, exec (.psgwL 1#3 0#4) s = .next t ∧ t.status = .running) ∧
    (let s := pass [0x50#8] 64
     s.status = .running ∧ s.cur = w.stored ∧ selectReg s.latch = w.latched ∧
      ∃ t, exec (.psgwL 1#3 0#4) s = .next t ∧ t.status ≠ .running) :=
  ⟨⟨rfl, by decide, rfl, _, rfl, rfl⟩, rfl, by decide, rfl, _, rfl, by decide⟩

end Sys2Proof.Tests
end

section
/-!
# The count of WAITN in the stream (20_memory.md R57)

A WAITN whose three bytes lie below `MAX_OFFSET` is fetched as a WAITN of the little-endian count, and then waits it.
-/
namespace Sys2Proof

/-- Under a proper map no row before WAITN's has its opcode byte (R5, R76). -/
theorem classify_waitN {m : OpMap} (hm : m.wf = true) : classify m m.waitN = .waitSamples := by
  obtain ⟨hdistinct, -, -⟩ := OpMap.wf_spec hm
  simp only [OpMap.singles, List.nodup_cons, List.mem_cons, not_or] at hdistinct
  obtain ⟨⟨-, hskip, -⟩, ⟨hwrite, -⟩, -⟩ := hdistinct
  simp [classify, Ne.symm hskip, Ne.symm hwrite]

namespace Machine

/-- The converse of `fetch_eq_command`: when the bytes that a command reads are in place and the command is well
framed, the fetch answers it (R53, R79). -/
theorem fetch_of_decode {s : State} {op : Byte} {operands rest : List Byte} {i : Instr}
    (hop : srcByte s s.pc = some op)
    (hframed : s.pc + commandLength s.cfg.ops op ≤ s.cfg.maxOffset)
    (hoperands : memRead s (s.pc + 1) (operandsRead (classify s.cfg.ops op)) = some operands)
    (hdec : decode s.cfg.ops (op :: operands ++ operandsUnread (classify s.cfg.ops op))
      = .command i rest) :
    fetch s = .command i := by
  obtain ⟨hstart, hmax, -⟩ := srcByte_eq_some.mp hop
  have hw : wellFramed (classify s.cfg.ops op).length s = true := wellFramed_iff.mpr hframed
  rw [fetch, if_neg (not_not_intro ⟨hstart, hmax⟩)]
  simp only [hop, hw, if_true, hoperands, hdec]

/-- A well-framed WAITN waits for its count (R121). -/
theorem exec_waitN_of_le {count : BitVec 16} {s : State} (h : s.pc + 3 ≤ s.cfg.maxOffset) :
    exec (.waitN count) s = .next (waitFor count.toNat 3 s) :=
  ifFramed_of_le h

/-- The fetch of a WAITN puts its two operand bytes together, low byte first (R57, R80). -/
theorem fetch_waitN {s : State} {lo hi : Byte} (hm : s.cfg.ops.wf = true)
    (hstart : s.cfg.startOffset ≤ s.pc) (hmax : s.pc + 3 ≤ s.cfg.maxOffset)
    (hop : Memory.read s.src s.pc = some s.cfg.ops.waitN)
    (hlo : Memory.read s.src (s.pc + 1) = some lo) (hhi : Memory.read s.src (s.pc + 2) = some hi) :
    fetch s = .command (.waitN (waitCount lo hi)) := by
  have hclass := classify_waitN hm
  have hoperands : memRead s (s.pc + 1) 2 = some [lo, hi] :=
    memRead_succ_eq_some.mpr ⟨lo, [hi], rfl, srcByte_eq_some.mpr ⟨by omega, by omega, hlo⟩,
      memRead_succ_eq_some.mpr ⟨hi, [], rfl, srcByte_eq_some.mpr ⟨by omega, by omega, hhi⟩, rfl⟩⟩
  refine fetch_of_decode (op := s.cfg.ops.waitN) (operands := [lo, hi]) (rest := [])
    (srcByte_eq_some.mpr ⟨hstart, by omega, hop⟩) ?framed ?operands ?decoded
  case framed => rw [commandLength, hclass]; exact hmax
  case operands => rw [hclass]; exact hoperands
  case decoded => rw [hclass, List.cons_append, decode_cons, hclass]; rfl

/-- Settles O39: the step is the WAITN that the fetch finds, and its count has the little-endian value. -/
theorem waitNCountIsLittleEndian : Obligations.WaitNCountIsLittleEndian := by
  unfold Obligations.WaitNCountIsLittleEndian
  intro s lo hi hvalid hrunning hstart hmax hop hlo hhi
  obtain ⟨-, -, -, hmap⟩ := configValid_iff.mp hvalid
  rw [step_of_fetch hvalid hrunning (by omega), fetch_waitN hmap hstart hmax hop hlo hhi]
  calc exec (.waitN (waitCount lo hi)) s
      = .next (waitFor (waitCount lo hi).toNat 3 s) := exec_waitN_of_le hmax
    _ = .next (waitFor (lo.toNat + 256 * hi.toNat) 3 s) := by rw [waitCount_toNat]

end Machine

end Sys2Proof
end

section
/-!
# What a Flush reads and writes, and when `PREV` follows `CUR` (43_frame_encoder.md R161, R170)

Both statements rest on the two ways a Flush starts. What it writes is then read off the state the continuation loop
leaves; what it reads, off two Flushes run side by side from states that agree on the Encoder's inputs.
-/
namespace Sys2Proof.Machine

@[simp] theorem FlushResult.state_ok (s : State) : (FlushResult.ok s).state = s := rfl
@[simp] theorem FlushResult.state_truncated (s : State) : (FlushResult.truncated s).state = s := rfl

/-! ### The start of a Flush -/

/-- What committing the first frame leaves: the frame written, its ticks consumed, and `PREV <- CUR` (R169, R170). -/
def afterFirstFrame (s : State) : State :=
  { consumeDelay (delayField (pendingTicks s)) (append (firstFrame s) s) with prev := s.cur }

theorem flush_of_firstFrame_fits {s : State} (h : fits (firstFrame s).length s = true) :
    flush s = continueFrames (pendingTicks s) (pendingTicks s - delayField (pendingTicks s))
      (afterFirstFrame s) := by
  rcases flush_cases s with ⟨hno, -⟩ | ⟨-, heq⟩
  · exact absurd h (by simp [hno])
  · exact heq

theorem flush_of_firstFrame_not_fits {s : State} (h : fits (firstFrame s).length s = false) :
    flush s = .truncated s := by
  rcases flush_cases s with ⟨-, heq⟩ | ⟨hyes, -⟩
  · exact heq
  · exact absurd h (by simp [hyes])

/-! ### What a Flush writes -/

/-- Once its first frame is committed, whatever happens later a Flush has written that frame, further bytes and
`PREV`, and has left some delay pending (R161, R170). -/
theorem flush_state_of_firstFrame_fits {s : State} (h : fits (firstFrame s).length s = true) :
    ∃ (tail : List Byte) (delay : Nat), (flush s).state =
      { s with out := s.out ++ (firstFrame s ++ tail), prev := s.cur, pendingDelay := delay } := by
  obtain ⟨ds, -, -, heq⟩ := continueFrames_spec (pendingTicks s)
    (pendingTicks s - delayField (pendingTicks s)) (afterFirstFrame s)
  refine ⟨ds.flatMap continuationFrame, (flush s).state.pendingDelay, ?_⟩
  rw [flush_of_firstFrame_fits h, heq]
  simp [afterFirstFrame, consumeDelay, append]

/-- The write set of a Flush (R161). -/
theorem flush_state_frame (s : State) :
    ∃ (bytes : List Byte) (prev : Regs) (delay : Nat), (flush s).state =
      { s with out := s.out ++ bytes, prev := prev, pendingDelay := delay } := by
  cases hf : fits (firstFrame s).length s with
  | true =>
    obtain ⟨tail, delay, heq⟩ := flush_state_of_firstFrame_fits hf
    exact ⟨firstFrame s ++ tail, s.cur, delay, heq⟩
  | false => exact ⟨[], s.prev, s.pendingDelay, by simp [flush_of_firstFrame_not_fits hf]⟩

/-! ### What a Flush reads -/

/-- Two states give the Encoder the same inputs (R161), and the bytes from place `n` of their buffers on are the
same: with `n` the length of the buffers when the Flush starts, those are the bytes it has written. -/
structure EncoderAgree (n : Nat) (s u : State) : Prop where
  cur : u.cur = s.cur
  prev : u.prev = s.prev
  pendingDelay : u.pendingDelay = s.pendingDelay
  outLength : u.out.length = s.out.length
  tickSamples : u.cfg.tickSamples = s.cfg.tickSamples
  outCapacity : u.cfg.outCapacity = s.cfg.outCapacity
  written : u.out.drop n = s.out.drop n

/-- Two Flush results are of the same kind, with states that agree. -/
inductive FlushResult.Agree (n : Nat) : FlushResult → FlushResult → Prop
  | ok {s u : State} (h : EncoderAgree n s u) : Agree n (.ok s) (.ok u)
  | truncated {s u : State} (h : EncoderAgree n s u) : Agree n (.truncated s) (.truncated u)

theorem FlushResult.Agree.ok_left {n : Nat} {s : State} {r : FlushResult}
    (h : FlushResult.Agree n (.ok s) r) : ∃ u, r = .ok u ∧ EncoderAgree n s u := by
  cases h with
  | ok h => exact ⟨_, rfl, h⟩

theorem FlushResult.Agree.truncated_left {n : Nat} {s : State} {r : FlushResult}
    (h : FlushResult.Agree n (.truncated s) r) : ∃ u, r = .truncated u ∧ EncoderAgree n s u := by
  cases h with
  | truncated h => exact ⟨_, rfl, h⟩

namespace EncoderAgree

variable {n : Nat} {s u : State}

theorem fits_eq (h : EncoderAgree n s u) (len : Nat) : fits len u = fits len s := by
  simp only [fits, outLen, h.outLength, h.outCapacity]

theorem pendingTicks_eq (h : EncoderAgree n s u) : pendingTicks u = pendingTicks s := by
  simp only [pendingTicks, h.pendingDelay, h.tickSamples]

theorem firstFrame_eq (h : EncoderAgree n s u) : firstFrame u = firstFrame s := by
  simp only [firstFrame, h.pendingTicks_eq, h.cur, h.prev]

/-- Committing one frame in both states keeps the agreement. -/
theorem commit (h : EncoderAgree n s u) (d : Nat) (frame : List Byte) :
    EncoderAgree n (consumeDelay d (append frame s)) (consumeDelay d (append frame u)) where
  cur := h.cur
  prev := h.prev
  pendingDelay := by simp [h.pendingDelay, h.tickSamples]
  outLength := by simp [h.outLength]
  tickSamples := h.tickSamples
  outCapacity := h.outCapacity
  written := by simp [List.drop_append, h.written, h.outLength]

theorem afterFirstFrame_agree (h : EncoderAgree n s u) :
    EncoderAgree n (afterFirstFrame s) (afterFirstFrame u) := by
  have hcommit := h.commit (delayField (pendingTicks s)) (firstFrame s)
  rw [afterFirstFrame, afterFirstFrame, h.pendingTicks_eq, h.firstFrame_eq]
  exact { hcommit with prev := h.cur }

/-- The continuation loops of both states take the same rounds. -/
theorem continueFrames_agree (fuel ticks : Nat) (h : EncoderAgree n s u) :
    FlushResult.Agree n (continueFrames fuel ticks s) (continueFrames fuel ticks u) := by
  induction fuel generalizing ticks s u with
  | zero => exact .ok h
  | succ fuel ih =>
    by_cases h0 : ticks = 0
    · subst h0
      simpa using .ok h
    · rw [continueFrames_succ _ _ _ h0, continueFrames_succ _ _ _ h0, h.fits_eq]
      split
      · exact ih _ (h.commit _ _)
      · exact .truncated h

/-- The read set of a Flush (R161): the inputs alone decide its result and what it writes. -/
theorem flush_agree (h : EncoderAgree n s u) : FlushResult.Agree n (flush s) (flush u) := by
  have hfits : fits (firstFrame u).length u = fits (firstFrame s).length s := by
    rw [h.firstFrame_eq, h.fits_eq]
  cases hf : fits (firstFrame s).length s with
  | true =>
    rw [flush_of_firstFrame_fits hf, flush_of_firstFrame_fits (hfits.trans hf), h.pendingTicks_eq]
    exact h.afterFirstFrame_agree.continueFrames_agree _ _
  | false =>
    rw [flush_of_firstFrame_not_fits hf, flush_of_firstFrame_not_fits (hfits.trans hf)]
    exact .truncated h

end EncoderAgree

/-! ### The obligations -/

/-- Settles O33: the write set is `flush_state_frame`; the read set is the agreement of two Flushes, measured from the
place where their buffers end when they start. -/
theorem flushReadsAndWritesItsOwnState : Obligations.FlushReadsAndWritesItsOwnState := by
  unfold Obligations.FlushReadsAndWritesItsOwnState
  refine ⟨?writes, ?reads⟩
  case writes =>
    intro s t h
    have ht : (flush s).state = t := by rcases h with h | h <;> simp [h]
    obtain ⟨bytes, prev, delay, heq⟩ := flush_state_frame s
    rw [← ht, heq]
    exact ⟨rfl, rfl, rfl, rfl, rfl, rfl, rfl, rfl, ⟨bytes, rfl⟩⟩
  case reads =>
    intro s u hcur hprev hdelay hlength hticks hcapacity
    have start : EncoderAgree s.out.length s u :=
      ⟨hcur, hprev, hdelay, hlength, hticks, hcapacity,
        by rw [List.drop_length, ← hlength, List.drop_length]⟩
    have result := start.flush_agree
    rw [hlength]
    constructor
    · intro t ht
      obtain ⟨v, hv, hagree⟩ := (ht ▸ result).ok_left
      exact ⟨v, hv, hagree.prev, hagree.pendingDelay, hagree.written⟩
    · intro t ht
      obtain ⟨v, hv, hagree⟩ := (ht ▸ result).truncated_left
      exact ⟨v, hv, hagree.prev, hagree.pendingDelay, hagree.written⟩

/-- Settles O34: a Flush whose first frame does not fit is truncated with nothing changed, so one that is `ok` has
committed it, and from there on nothing writes `PREV` or `CUR`. -/
theorem prevFollowsTheFirstFrame : Obligations.PrevFollowsTheFirstFrame := by
  unfold Obligations.PrevFollowsTheFirstFrame
  intro s t
  cases hf : fits (firstFrame s).length s with
  | true =>
    obtain ⟨tail, delay, heq⟩ := flush_state_of_firstFrame_fits hf
    have regs (ht : (flush s).state = t) : t.prev = s.cur ∧ t.cur = s.cur := by
      rw [← ht, heq]
      exact ⟨rfl, rfl⟩
    exact ⟨fun h => ⟨rfl, regs (by rw [h, FlushResult.state_ok])⟩,
      fun h => ⟨fun _ => regs (by rw [h, FlushResult.state_truncated]), nofun⟩⟩
  | false =>
    rw [flush_of_firstFrame_not_fits hf]
    refine ⟨nofun, fun h => ⟨nofun, fun _ => ?_⟩⟩
    rw [FlushResult.truncated.inj h]
    exact ⟨rfl, rfl⟩

end Sys2Proof.Machine
end

section
/-!
# The opcode map and the decoder (30_encoding.md)

Under a proper map each class has the opcode bytes of its row and no other class has them; with it, decoding and
encoding are inverse to each other, and the decoder fails on short input alone.
-/
namespace Sys2Proof

/-! ### The rows of the map -/

/-- `op` is an opcode byte of the class's row (R76). -/
def CommandClass.hasOpcode (m : OpMap) (op : Byte) : CommandClass → Prop
  | .skipSecondaryByte => op = m.skip1
  | .registerWrite => op = m.psgWrite
  | .waitSamples => op = m.waitN
  | .wait60 => op = m.wait60
  | .wait50 => op = m.wait50
  | .endOfData => op = m.endOfData
  | .waitShort => m.inShortFamily op = true
  | .unknown => m.recognises op = false

/-- Under every map, the class that a byte gets has that byte in its row. -/
theorem hasOpcode_classify (m : OpMap) (op : Byte) : (classify m op).hasOpcode m op := by
  unfold classify
  iterate 7
    split
    next h => exact h
  rename_i hskip hwrite hwaitN hwait60 hwait50 hend hfamily
  show m.recognises op = false
  simp [OpMap.recognises, OpMap.singles, hskip, hwrite, hwaitN, hwait60, hwait50, hend, hfamily]

/-- Under a proper map the rows are disjoint, so a byte of a class's row has that class (R5, R76). -/
theorem classify_of_hasOpcode {m : OpMap} {op : Byte} {c : CommandClass} (hm : m.wf = true)
    (h : c.hasOpcode m op) : classify m op = c := by
  obtain ⟨hdistinct, hfamily, -⟩ := OpMap.wf_spec hm
  have hlaterNe : m.singles.Pairwise fun a b => b ≠ a := List.Pairwise.imp Ne.symm hdistinct
  simp only [OpMap.singles, List.pairwise_cons, List.mem_cons, forall_eq_or_imp] at hlaterNe
  have hnotSingle (hop : op ∉ m.singles) :
      classify m op = if m.inShortFamily op then .waitShort else .unknown := by
    simp only [OpMap.singles, List.mem_cons, not_or] at hop
    simp [classify, hop]
  cases c with
  | skipSecondaryByte => simp [show op = m.skip1 from h, classify]
  | registerWrite => simp [show op = m.psgWrite from h, classify, hlaterNe]
  | waitSamples => rw [show op = m.waitN from h, classify_waitN hm]
  | wait60 => simp [show op = m.wait60 from h, classify, hlaterNe]
  | wait50 => simp [show op = m.wait50 from h, classify, hlaterNe]
  | endOfData => simp [show op = m.endOfData from h, classify, hlaterNe]
  | waitShort =>
    have hf : m.inShortFamily op = true := h
    rw [hnotSingle (fun hop => by simp [hfamily op hop] at hf), if_pos hf]
  | unknown =>
    obtain ⟨hop, hf⟩ := OpMap.recognises_eq_false h
    rw [hnotSingle hop, hf, if_neg Bool.false_ne_true]

/-- The map of opcode bytes, in both directions (R76). -/
theorem classify_eq_iff {m : OpMap} {op : Byte} {c : CommandClass} (hm : m.wf = true) :
    classify m op = c ↔ c.hasOpcode m op :=
  ⟨fun h => h ▸ hasOpcode_classify m op, classify_of_hasOpcode hm⟩

theorem OpMap.inShortFamily_iff {m : OpMap} {op : Byte} :
    m.inShortFamily op = true ↔
      m.waitShortBase.toNat ≤ op.toNat ∧ op.toNat ≤ m.waitShortBase.toNat + 15 := by
  simp [OpMap.inShortFamily]

/-! ### The short-wait family -/

/-- A byte as its two nibbles. -/
theorem byte_toNat_eq_nibbles (b : Byte) :
    b.toNat = 16 * (b.extractLsb' 4 4).toNat + (b.extractLsb' 0 4).toNat := by
  have := b.isLt
  simp only [BitVec.extractLsb'_toNat, Nat.shiftRight_eq_div_pow]
  omega

theorem byte_eq_nibbles (b : Byte) : b.extractLsb' 4 4 ++ b.extractLsb' 0 4 = b := by
  revert b
  decide

/-- Under a proper map the short-wait family is the 16 bytes with its base's high nibble (R71). -/
theorem OpMap.inShortFamily_iff_high {m : OpMap} {op : Byte} (hm : m.wf = true) :
    m.inShortFamily op = true ↔ op.extractLsb' 4 4 = m.waitShortBase.extractLsb' 4 4 := by
  obtain ⟨-, -, hbase⟩ := OpMap.wf_spec hm
  have hlow : (m.waitShortBase.extractLsb' 0 4).toNat = 0 := by rw [hbase]; rfl
  have hop := (op.extractLsb' 0 4).isLt
  rw [OpMap.inShortFamily_iff, byte_toNat_eq_nibbles op, byte_toNat_eq_nibbles m.waitShortBase, hlow,
    ← BitVec.toNat_inj]
  omega

/-! ### The decoder, by the length of its input -/

/-- The decoder of a class rejects input that is too short for the class, and otherwise gives a command of the class's
length and the bytes after it (R78). -/
theorem decodeClass_cases (c : CommandClass) (op : Byte) (after : List Byte) :
    (after.length + 1 < c.length ∧ ∃ e, decodeClass c op after = .rejected e) ∨
    (c.length ≤ after.length + 1 ∧ ∃ i : Instr, i.length = c.length ∧
      decodeClass c op after = .command i (after.drop (c.length - 1))) := by
  cases c with
  | skipSecondaryByte =>
    cases after with
    | nil => exact .inl ⟨by decide, _, rfl⟩
    | cons b rest => exact .inr ⟨by simp [CommandClass.length], _, rfl, rfl⟩
  | registerWrite =>
    cases after with
    | nil => exact .inl ⟨by decide, _, rfl⟩
    | cons d rest =>
      refine .inr ⟨by simp [CommandClass.length], _, ?_, rfl⟩
      rcases decodePsgOperand_cases d with ⟨h, -⟩ | ⟨h, -⟩ <;> rw [h] <;> rfl
  | waitSamples =>
    match after with
    | [] => exact .inl ⟨by decide, _, rfl⟩
    | [lo] => exact .inl ⟨by simp [CommandClass.length], _, rfl⟩
    | lo :: hi :: rest => exact .inr ⟨by simp [CommandClass.length], _, rfl, rfl⟩
  | wait60 => exact .inr ⟨Nat.le_add_left _ _, _, rfl, rfl⟩
  | wait50 => exact .inr ⟨Nat.le_add_left _ _, _, rfl, rfl⟩
  | endOfData => exact .inr ⟨Nat.le_add_left _ _, _, rfl, rfl⟩
  | waitShort => exact .inr ⟨Nat.le_add_left _ _, _, rfl, rfl⟩
  | unknown => exact .inr ⟨Nat.le_add_left _ _, _, rfl, rfl⟩

/-- What the decoder answers for bytes long enough for their opcode byte (R78, R83). -/
theorem decode_of_length_le {m : OpMap} {op : Byte} {after : List Byte}
    (h : commandLength m op ≤ (op :: after).length) :
    ∃ i : Instr, i.length = commandLength m op ∧
      decode m (op :: after) = .command i ((op :: after).drop (commandLength m op)) := by
  rcases decodeClass_cases (classify m op) op after with ⟨hlt, -⟩ | ⟨-, i, hi, hdec⟩
  · exact absurd h (Nat.not_le.mpr hlt)
  · refine ⟨i, hi, hdec.trans ?_⟩
    have hpos : 0 < commandLength m op := by
      rw [commandLength]
      cases classify m op <;> decide
    obtain ⟨n, hn⟩ := Nat.exists_eq_succ_of_ne_zero (Nat.ne_of_gt hpos)
    have hlength : (classify m op).length = n + 1 := hn
    rw [hlength, hn]
    rfl

/-- The decoder rejects bytes too short for their opcode byte (R78). -/
theorem decode_of_length_lt {m : OpMap} {op : Byte} {after : List Byte}
    (h : (op :: after).length < commandLength m op) :
    ∃ e, decode m (op :: after) = .rejected e := by
  rcases decodeClass_cases (classify m op) op after with ⟨-, hrej⟩ | ⟨hle, -⟩
  · exact hrej
  · exact absurd h (Nat.not_lt.mpr hle)

/-- A decoded command has the length that its opcode byte claims, and what it leaves is the input after it (R78). -/
theorem decode_eq_command {m : OpMap} {op : Byte} {after rest : List Byte} {i : Instr}
    (h : decode m (op :: after) = .command i rest) :
    commandLength m op ≤ (op :: after).length ∧ i.length = commandLength m op ∧
      rest = (op :: after).drop (commandLength m op) := by
  rcases Nat.lt_or_ge (op :: after).length (commandLength m op) with hlt | hle
  · obtain ⟨e, he⟩ := decode_of_length_lt hlt
    rw [he] at h
    cases h
  · obtain ⟨j, hj, hdec⟩ := decode_of_length_le hle
    rw [hdec] at h
    obtain ⟨rfl, rfl⟩ := Decoded.command.inj h
    exact ⟨hle, hj, rfl⟩

/-- Bytes that are one whole command are as many as their opcode byte claims (R78). -/
theorem length_eq_of_decode {m : OpMap} {op : Byte} {after : List Byte} {i : Instr}
    (h : decode m (op :: after) = .command i []) : (op :: after).length = commandLength m op := by
  obtain ⟨hle, -, hrest⟩ := decode_eq_command h
  exact Nat.le_antisymm (List.drop_eq_nil_iff.mp hrest.symm) hle

/-! ### The obligations -/

/-- Settles O1: the opcode byte of a well-formed command has the command's class, and each class reads its operands
back. -/
theorem decodeOfEncodeIsTheCommand : Obligations.DecodeOfEncodeIsTheCommand := by
  unfold Obligations.DecodeOfEncodeIsTheCommand
  intro m i rest hm hi
  have read {c : CommandClass} {op : Byte} (hop : c.hasOpcode m op) (after : List Byte) :
      decode m (op :: after) = decodeClass c op after := by
    rw [decode_cons, classify_of_hasOpcode hm hop]
  cases i with
  | skip1 b => exact read (c := .skipSecondaryByte) rfl _
  | psgwL sel val =>
    rw [encode, List.cons_append, read (c := .registerWrite) rfl]
    exact congrArg (Decoded.command · rest) (decodePsgOperand_latch sel val)
  | psgwD ignored bits =>
    rw [encode, List.cons_append, read (c := .registerWrite) rfl]
    exact congrArg (Decoded.command · rest) (decodePsgOperand_data ignored bits)
  | waitN count =>
    rw [encode, List.cons_append, read (c := .waitSamples) rfl]
    exact congrArg (fun n => Decoded.command (.waitN n) rest) (waitCount_extract count)
  | wait60 => exact read (c := .wait60) rfl _
  | wait50 => exact read (c := .wait50) rfl _
  | eod => exact read (c := .endOfData) rfl _
  | waitS n =>
    have hop : CommandClass.hasOpcode m (m.waitShortBase.extractLsb' 4 4 ++ n) .waitShort :=
      (OpMap.inShortFamily_iff_high hm).mpr (BitVec.extractLsb'_append_eq_left)
    rw [encode, List.cons_append, read hop]
    exact congrArg (fun n => Decoded.command (.waitS n) rest) BitVec.extractLsb'_append_eq_right
  | unknown op =>
    have hop : m.recognises op = false := by simpa [Instr.wf] using hi
    exact read (c := .unknown) hop _

/-- Settles O2: the class of the opcode byte says which row the byte is of, and each class keeps all bits of its
operands. -/
theorem decodedBytesAreTheEncoding : Obligations.DecodedBytesAreTheEncoding := by
  unfold Obligations.DecodedBytesAreTheEncoding
  intro m bytes i rest hm hdec
  obtain _ | ⟨op, after⟩ := bytes
  · cases hdec
  have hop := hasOpcode_classify m op
  rw [decode_cons] at hdec
  generalize classify m op = c at hop hdec
  cases c with
  | skipSecondaryByte =>
    cases after with
    | nil => cases hdec
    | cons b rest =>
      cases hdec
      exact ⟨rfl, congrArg (· :: _) hop⟩
  | registerWrite =>
    cases after with
    | nil => cases hdec
    | cons d rest =>
      cases hdec
      obtain rfl : op = m.psgWrite := hop
      rcases decodePsgOperand_cases d with ⟨hform, hbits⟩ | ⟨hform, hbits⟩ <;> rw [hform]
      · exact ⟨rfl, congrArg (m.psgWrite :: · :: rest) hbits⟩
      · exact ⟨rfl, congrArg (m.psgWrite :: · :: rest) hbits⟩
  | waitSamples =>
    match after, hdec with
    | lo :: hi :: rest, hdec =>
      cases hdec
      obtain rfl : op = m.waitN := hop
      exact ⟨rfl, by simp [encode, extract_low_waitCount, extract_high_waitCount]⟩
  | wait60 => cases hdec; exact ⟨rfl, congrArg (· :: _) hop⟩
  | wait50 => cases hdec; exact ⟨rfl, congrArg (· :: _) hop⟩
  | endOfData => cases hdec; exact ⟨rfl, congrArg (· :: _) hop⟩
  | waitShort =>
    cases hdec
    refine ⟨rfl, ?_⟩
    rw [encode, ← (OpMap.inShortFamily_iff_high hm).mp hop, byte_eq_nibbles]
    rfl
  | unknown =>
    cases hdec
    have hop : m.recognises op = false := hop
    exact ⟨by simp [Instr.wf, hop], rfl⟩

/-- Settles O3, by comparing the length of the input with the length that its opcode byte claims. -/
theorem decoderRejectsOnlyShortInput : Obligations.DecoderRejectsOnlyShortInput := by
  unfold Obligations.DecoderRejectsOnlyShortInput
  intro m bytes
  refine ⟨⟨?rejected, ?short⟩, ?accepted⟩
  case rejected =>
    rintro ⟨e, he⟩
    obtain _ | ⟨op, after⟩ := bytes
    · exact .inl rfl
    · refine .inr ⟨op, after, rfl, Nat.not_le.mp fun hle => ?_⟩
      obtain ⟨i, -, hdec⟩ := decode_of_length_le hle
      rw [hdec] at he
      cases he
  case short =>
    rintro (rfl | ⟨op, after, rfl, hlt⟩)
    · exact ⟨_, decode_nil m⟩
    · exact decode_of_length_lt hlt
  case accepted =>
    rintro op after i rest rfl hdec
    exact (decode_eq_command hdec).2

/-- Settles O4: the rows of `CommandClass.hasOpcode`, written out. -/
theorem everyOpcodeByteHasItsOneClass : Obligations.EveryOpcodeByteHasItsOneClass := by
  unfold Obligations.EveryOpcodeByteHasItsOneClass
  intro m op hm
  exact ⟨classify_eq_iff hm, classify_eq_iff hm, classify_eq_iff hm, classify_eq_iff hm,
    classify_eq_iff hm, classify_eq_iff hm, (classify_eq_iff hm).trans OpMap.inShortFamily_iff,
    classify_eq_iff hm⟩

/-- The bytes that the decided numbers leave unknown (R77, D1). -/
theorem OpMap.decided_recognises_eq_false_iff (op : Byte) :
    OpMap.decided.recognises op = false ↔
      op.toNat ≤ 0x4E ∨ (0x51 ≤ op.toNat ∧ op.toNat ≤ 0x60) ∨ op.toNat = 0x64 ∨ op.toNat = 0x65 ∨
        (0x67 ≤ op.toNat ∧ op.toNat ≤ 0x6F) ∨ 0x80 ≤ op.toNat := by
  revert op
  decide

/-- Settles O5: the unknown bytes are those that the decided map does not recognise. -/
theorem unknownOpcodesAreTheFiveRanges : Obligations.UnknownOpcodesAreTheFiveRanges := by
  unfold Obligations.UnknownOpcodesAreTheFiveRanges
  refine ⟨fun op => ?_, by decide +kernel⟩
  rw [classify_eq_iff OpMap.decided_wf]
  exact OpMap.decided_recognises_eq_false_iff op

/-- Settles O6, by decoding each byte sequence. -/
theorem writtenOutBytesDecode : Obligations.WrittenOutBytesDecode := by
  unfold Obligations.WrittenOutBytesDecode
  decide

end Sys2Proof
end

section
/-!
# The closed form of a Flush (43_frame_encoder.md R165 to R173)

The continuation loop runs through the table of R168, so a Flush with room leaves the closed form, and one without room
stops where the buffer is exactly full.
-/
namespace Sys2Proof.Machine

/-! ### Headers -/

/-- No register changed. -/
def ChangeFlags.none : ChangeFlags := ⟨false, false, false, false, false, false⟩

@[simp] theorem changeFlags_self (r : Regs) : changeFlags r r = .none := by
  simp [changeFlags, ChangeFlags.none]

/-- Where each part of a header stands (R85). -/
theorem headerByte_fields {d : Nat} (f : ChangeFlags) (hd : d < 4) :
    headerDelay (headerByte d f) = d ∧
    (headerByte d f).getLsbD 0 = f.tone0 ∧ (headerByte d f).getLsbD 1 = f.tone1 ∧
    (headerByte d f).getLsbD 2 = f.tone2 ∧ (headerByte d f).getLsbD 3 = f.noise ∧
    (headerByte d f).getLsbD 4 = f.vol01 ∧ (headerByte d f).getLsbD 5 = f.vol2n := by
  have table : ∀ (d : Fin 4) (b0 b1 b2 b3 b4 b5 : Bool),
      let h := headerByte d ⟨b0, b1, b2, b3, b4, b5⟩
      headerDelay h = d ∧ h.getLsbD 0 = b0 ∧ h.getLsbD 1 = b1 ∧ h.getLsbD 2 = b2 ∧
        h.getLsbD 3 = b3 ∧ h.getLsbD 4 = b4 ∧ h.getLsbD 5 = b5 := by decide
  exact table ⟨d, hd⟩ _ _ _ _ _ _

@[simp] theorem payloadIf_length (flag : Bool) (b : Byte) :
    (payloadIf flag b).length = flag.toNat := by
  cases flag <;> rfl

/-- A header announces its payload (R87). -/
theorem payloadLength_headerByte {d : Nat} (f : ChangeFlags) (cur : Regs) (hd : d < 4) :
    payloadLength (headerByte d f) = (payloadBytes f cur).length := by
  obtain ⟨-, h0, h1, h2, h3, h4, h5⟩ := headerByte_fields f hd
  simp only [payloadLength, h0, h1, h2, h3, h4, h5, payloadBytes, List.length_append, payloadIf_length]

/-- A continuation frame is a header with no flag (R167). -/
theorem continuationFrame_eq (d : Nat) : continuationFrame d = [headerByte d .none] := by
  simp [continuationFrame, headerByte, ChangeFlags.none, flagByte]

@[simp] theorem continuationFrame_length (d : Nat) : (continuationFrame d).length = 1 := rfl

theorem delayField_le_three (ticks : Nat) : delayField ticks ≤ 3 := Nat.min_le_right _ _

theorem delayField_le (ticks : Nat) : delayField ticks ≤ ticks := Nat.min_le_left _ _

/-- With no register changed the first frame is a header alone (R165). -/
theorem firstFrame_of_unchanged {s : State} (h : s.cur = s.prev) :
    firstFrame s = continuationFrame (delayField (pendingTicks s)) := by
  rw [firstFrame, h, changeFlags_self, continuationFrame_eq]
  rfl

/-! ### The delay fields of R168 -/

/-- The delay fields of the continuation frames for `ticks` remaining ticks. -/
def continuationFields (ticks : Nat) : List Nat :=
  List.replicate (ticks / 3) 3 ++ if ticks % 3 = 0 then [] else [ticks % 3]

@[simp] theorem continuationFields_zero : continuationFields 0 = [] := rfl

/-- The fields of one round of the loop and of the rounds after it (R169). -/
theorem continuationFields_of_ne_zero {ticks : Nat} (h : ticks ≠ 0) :
    continuationFields ticks = delayField ticks :: continuationFields (ticks - delayField ticks) := by
  rcases Nat.lt_or_ge ticks 3 with hlt | hge
  · have hmod : ticks % 3 = ticks := Nat.mod_eq_of_lt hlt
    have hfield : delayField ticks = ticks := Nat.min_eq_left (Nat.le_of_lt hlt)
    rw [hfield, Nat.sub_self, continuationFields_zero, continuationFields, Nat.div_eq_of_lt hlt, hmod,
      if_neg h]
    rfl
  · have hdiv : ticks / 3 = (ticks - 3) / 3 + 1 := by omega
    have hmod : ticks % 3 = (ticks - 3) % 3 := by omega
    rw [delayField, Nat.min_eq_right hge, continuationFields, continuationFields, hdiv, hmod,
      List.replicate_succ, List.cons_append]

/-- The table of R168 is the first frame's field and the continuations' fields. -/
theorem delayFields_eq (ticks : Nat) :
    delayFields ticks = delayField ticks :: continuationFields (ticks - delayField ticks) := by
  by_cases h : ticks = 0
  · subst h; rfl
  · rw [← continuationFields_of_ne_zero h, delayFields, if_neg h, continuationFields]

theorem continuationFields_sum (ticks : Nat) : (continuationFields ticks).sum = ticks := by
  have hlast : (if ticks % 3 = 0 then [] else [ticks % 3]).sum = ticks % 3 := by
    split
    next hzero => exact hzero.symm
    next => rfl
  rw [continuationFields, List.sum_append_nat, List.sum_replicate_nat, hlast]
  omega

theorem continuationFields_le_three {ticks d : Nat} (h : d ∈ continuationFields ticks) : d ≤ 3 := by
  rcases List.mem_append.mp h with h | h
  · exact Nat.le_of_eq (List.eq_of_mem_replicate h)
  · split at h
    · cases h
    · rw [List.mem_singleton.mp h]
      omega

theorem flatMap_continuationFrame_length (ds : List Nat) :
    (ds.flatMap continuationFrame).length = ds.length := by
  induction ds with
  | nil => rfl
  | cons d ds ih => rw [List.flatMap_cons, List.length_append, ih, continuationFrame_length,
      List.length_cons, Nat.add_comm]

/-! ### The continuation loop -/

/-- With room for all its frames the loop writes the table's fields and consumes all its ticks (R169, R171). -/
theorem continueFrames_of_room {fuel ticks : Nat} {s : State} (hfuel : ticks ≤ fuel)
    (hroom : s.out.length + (continuationFields ticks).length ≤ s.cfg.outCapacity) :
    continueFrames fuel ticks s = .ok { s with
      out := s.out ++ (continuationFields ticks).flatMap continuationFrame
      pendingDelay := s.pendingDelay - ticks * s.cfg.tickSamples } := by
  induction fuel generalizing ticks s with
  | zero =>
    obtain rfl : ticks = 0 := by omega
    simp
  | succ fuel ih =>
    by_cases h0 : ticks = 0
    · subst h0; simp
    have hd : 0 < delayField ticks ∧ delayField ticks ≤ ticks := by unfold delayField; omega
    rw [continuationFields_of_ne_zero h0, List.length_cons] at hroom
    have hfits : fits 1 s = true := fits_iff.mpr (by omega)
    rw [continueFrames_succ _ _ _ h0, if_pos hfits, ih (by omega) (by simp; omega),
      continuationFields_of_ne_zero h0]
    have hdelay : s.pendingDelay - delayField ticks * s.cfg.tickSamples
          - (ticks - delayField ticks) * s.cfg.tickSamples
        = s.pendingDelay - ticks * s.cfg.tickSamples := by
      rw [Nat.sub_sub, ← Nat.add_mul, Nat.add_sub_cancel' hd.2]
    simp [consumeDelay, append, hdelay]

/-- Without room for all its frames the loop commits frames of three ticks until the buffer is exactly full, and ticks
remain (R172, R173). -/
theorem continueFrames_of_no_room {fuel ticks : Nat} {s : State} (hfuel : ticks ≤ fuel)
    (hout : s.out.length ≤ s.cfg.outCapacity)
    (hroom : s.cfg.outCapacity < s.out.length + (continuationFields ticks).length) :
    ∃ n, 3 * n < ticks ∧ s.out.length + n = s.cfg.outCapacity ∧
      continueFrames fuel ticks s = .truncated { s with
        out := s.out ++ List.replicate n 0xC0#8
        pendingDelay := s.pendingDelay - 3 * n * s.cfg.tickSamples } := by
  have h0 : ticks ≠ 0 := by
    rintro rfl
    simp at hroom
    omega
  induction fuel generalizing ticks s with
  | zero => omega
  | succ fuel ih =>
    have hd : 0 < delayField ticks := by unfold delayField; omega
    rw [continuationFields_of_ne_zero h0, List.length_cons] at hroom
    rw [continueFrames_succ _ _ _ h0]
    cases hfits : fits 1 s with
    | false =>
      have hfull := fits_eq_false_iff.mp hfits
      exact ⟨0, by omega, by omega, by simp⟩
    | true =>
      have hfits' := fits_iff.mp hfits
      have hmore : ticks - delayField ticks ≠ 0 := by
        intro hzero
        rw [hzero] at hroom
        simp at hroom
        omega
      have hthree : delayField ticks = 3 := by unfold delayField at hmore ⊢; omega
      obtain ⟨n, hticks, hfull, heq⟩ := ih
        (s := consumeDelay (delayField ticks) (append (continuationFrame (delayField ticks)) s))
        (by omega) (by simp; omega) (by simp; omega) hmore
      refine ⟨n + 1, by omega, by simp at hfull; omega, ?_⟩
      rw [if_pos rfl, heq, hthree]
      simp [consumeDelay, append, continuationFrame, List.replicate_succ, Nat.sub_sub, ← Nat.add_mul,
        Nat.mul_add, Nat.add_comm]

/-! ### The whole Flush -/

theorem flushBytes_eq (s : State) :
    flushBytes s = firstFrame s ++
      (continuationFields (pendingTicks s - delayField (pendingTicks s))).flatMap continuationFrame := by
  rw [flushBytes, delayFields_eq, List.tail_cons]

theorem flushFits_iff {s : State} :
    flushFits s = true ↔ s.out.length + (firstFrame s).length +
      (continuationFields (pendingTicks s - delayField (pendingTicks s))).length
        ≤ s.cfg.outCapacity := by
  rw [flushFits, fits_iff, flushBytes_eq, List.length_append, flatMap_continuationFrame_length,
    Nat.add_assoc]

/-- With room a Flush leaves its closed form (R168). -/
theorem flush_of_room {s : State} (h : flushFits s = true) : flush s = .ok (flushed s) := by
  have hroom := flushFits_iff.mp h
  rw [flush_of_firstFrame_fits (fits_iff.mpr (by omega)),
    continueFrames_of_room (Nat.sub_le _ _) (by simpa [afterFirstFrame] using hroom)]
  have hdelay : s.pendingDelay - delayField (pendingTicks s) * s.cfg.tickSamples
      - (pendingTicks s - delayField (pendingTicks s)) * s.cfg.tickSamples
      = s.pendingDelay % s.cfg.tickSamples := by
    rw [Nat.sub_sub, ← Nat.add_mul, Nat.add_sub_cancel' (delayField_le _), Nat.mod_eq_sub_div_mul]
    rfl
  simp [afterFirstFrame, flushed, flushBytes_eq, consumeDelay, append, hdelay]

/-- Without room a Flush is truncated at a frame boundary (R173). -/
theorem flush_of_no_room {s : State} (h : flushFits s = false) :
    (fits (firstFrame s).length s = false ∧ flush s = .truncated s) ∨
    (fits (firstFrame s).length s = true ∧ ∃ n, 3 * (n + 1) < pendingTicks s ∧
      s.out.length + (firstFrame s).length + n = s.cfg.outCapacity ∧
      flush s = .truncated { s with
        out := s.out ++ firstFrame s ++ List.replicate n 0xC0#8
        prev := s.cur
        pendingDelay := s.pendingDelay - 3 * (n + 1) * s.cfg.tickSamples }) := by
  cases hf : fits (firstFrame s).length s with
  | false => exact .inl ⟨rfl, flush_of_firstFrame_not_fits hf⟩
  | true =>
    have hfirst := fits_iff.mp hf
    have hroom := mt (flushFits_iff (s := s)).mpr (by simp [h])
    obtain ⟨n, hticks, hfull, heq⟩ := continueFrames_of_no_room (s := afterFirstFrame s)
      (Nat.sub_le (pendingTicks s) (delayField (pendingTicks s)))
      (by simpa [afterFirstFrame] using hfirst) (by simpa [afterFirstFrame] using hroom)
    have hthree : delayField (pendingTicks s) = 3 := by unfold delayField at hticks ⊢; omega
    refine .inr ⟨rfl, n, by omega, by simpa [afterFirstFrame] using hfull, ?_⟩
    rw [flush_of_firstFrame_fits hf, heq, afterFirstFrame, hthree]
    simp [consumeDelay, append, Nat.sub_sub, ← Nat.add_mul, Nat.mul_add, Nat.add_comm]

/-- A Flush is `ok` exactly with room, and then it leaves its closed form. -/
theorem flush_eq_ok_iff {s t : State} : flush s = .ok t ↔ flushFits s = true ∧ t = flushed s := by
  constructor
  · intro h
    cases hroom : flushFits s with
    | true => exact ⟨rfl, by simpa [flush_of_room hroom, eq_comm] using h⟩
    | false =>
      rcases flush_of_no_room hroom with ⟨-, htrunc⟩ | ⟨-, n, -, -, htrunc⟩ <;>
      · rw [htrunc] at h
        cases h
  · rintro ⟨hroom, rfl⟩
    exact flush_of_room hroom

/-- A Flush is truncated exactly without room. -/
theorem flush_truncated_iff {s : State} : (∃ t, flush s = .truncated t) ↔ flushFits s = false := by
  cases hroom : flushFits s with
  | true => simp [flush_of_room hroom]
  | false =>
    rcases flush_of_no_room hroom with ⟨-, h⟩ | ⟨-, n, -, -, h⟩ <;> simp [h]

/-- With no register changed a Flush writes the delay fields of R168, one byte each. -/
theorem flushBytes_of_unchanged {s : State} (h : s.cur = s.prev) :
    flushBytes s = (delayFields (pendingTicks s)).flatMap continuationFrame := by
  rw [flushBytes_eq, firstFrame_of_unchanged h, delayFields_eq, List.flatMap_cons]

theorem continuationFrame_low_bits {d : Nat} {h : Byte} (hh : h ∈ continuationFrame d) :
    h.extractLsb' 0 6 = 0#6 := by
  rw [List.mem_singleton.mp hh]
  ext i hi
  simp [hi]

/-! ### The obligations -/

/-- Settles O30, from the places of the header's parts. -/
theorem headerAnnouncesItsPayload : Obligations.HeaderAnnouncesItsPayload := by
  unfold Obligations.HeaderAnnouncesItsPayload
  intro d f cur hd
  obtain ⟨hdelay, hflags⟩ := headerByte_fields f hd
  exact ⟨hdelay, payloadLength_headerByte f cur hd, hflags⟩

/-- Settles O31, by `flush_of_room`. -/
theorem flushIsItsClosedForm : Obligations.FlushIsItsClosedForm := by
  unfold Obligations.FlushIsItsClosedForm
  exact fun s _ hroom => flush_of_room hroom

/-- Settles O32: the two places where a Flush can be truncated. -/
theorem flushTruncatesAtAFrameBoundary : Obligations.FlushTruncatesAtAFrameBoundary := by
  unfold Obligations.FlushTruncatesAtAFrameBoundary
  intro s _ hroom
  rcases flush_of_no_room hroom with ⟨hfirst, heq⟩ | ⟨hfirst, n, hticks, hfull, heq⟩
  · exact ⟨s, heq, fun _ => rfl, fun h => absurd h (by simp [hfirst])⟩
  · have hpending : (3 * (n + 1) + 1) * s.cfg.tickSamples ≤ s.pendingDelay :=
      Nat.le_trans (Nat.mul_le_mul_right _ hticks) (Nat.div_mul_le_self _ _)
    rw [Nat.add_mul] at hpending
    refine ⟨_, heq, fun h => absurd h (by simp [hfirst]), fun _ => ⟨n, rfl, ?full, ?pending, ?consumed⟩⟩
    case full => simpa [Nat.add_assoc] using hfull
    case pending => show s.cfg.tickSamples ≤ s.pendingDelay - _; omega
    case consumed => omega

/-- Settles O29: each flag is its comparison, and an `ok` Flush begins with the first frame. -/
theorem changeFlagsCompareStoredValues : Obligations.ChangeFlagsCompareStoredValues := by
  unfold Obligations.ChangeFlagsCompareStoredValues
  refine ⟨fun cur prev => by simp [changeFlags], fun s t h => ?_⟩
  obtain ⟨-, rfl⟩ := flush_eq_ok_iff.mp h
  rw [flushed_out, flushBytes_eq, firstFrame, List.cons_append]
  exact ⟨delayField (pendingTicks s), _, Nat.lt_succ_of_le (delayField_le_three _), rfl⟩

/-- Settles O36: after a Flush `PREV` is `CUR`, so the next one writes the fields of its delay alone. -/
theorem secondFlushWritesNoPayload : Obligations.SecondFlushWritesNoPayload := by
  unfold Obligations.SecondFlushWritesNoPayload
  intro s t hticks hflush
  obtain ⟨-, rfl⟩ := flush_eq_ok_iff.mp hflush
  refine ⟨fun u hu => ?_, fun delay u hu => ?_⟩
  · obtain ⟨-, rfl⟩ := flush_eq_ok_iff.mp hu
    have hzero : pendingTicks (flushed s) = 0 := Nat.div_eq_of_lt (Nat.mod_lt _ hticks)
    rw [flushed_out, flushBytes_of_unchanged rfl, hzero]
    rfl
  · obtain ⟨-, rfl⟩ := flush_eq_ok_iff.mp hu
    refine ⟨_, ?_, flushed_out _, fun h hh => ?_⟩
    · simp [flushBytes_eq, firstFrame]
    · rw [flushBytes_of_unchanged rfl] at hh
      obtain ⟨d, -, hd⟩ := List.mem_flatMap.mp hh
      exact continuationFrame_low_bits hd

/-- Settles O37: four ticks are the delay fields 3 and 1. -/
theorem fourTicksMakeTwoFrames : Obligations.FourTicksMakeTwoFrames := by
  unfold Obligations.FourTicksMakeTwoFrames
  intro s hticks hregs hpending hroom
  have hfour : pendingTicks s = 4 := by
    rw [pendingTicks, hpending, Nat.mul_div_cancel _ hticks]
  have hbytes : flushBytes s = [0xC0#8, 0x40#8] := by
    rw [flushBytes_of_unchanged hregs, hfour]
    rfl
  have hfits : flushFits s = true := by
    rw [flushFits, fits_iff, hbytes]
    exact hroom
  rw [flush_of_room hfits, flushed, hbytes, hregs, hpending, Nat.mul_mod_left]

end Sys2Proof.Machine
end

section
/-!
# Reading the Output Buffer as frames (30_encoding.md R84 to R89, 43_frame_encoder.md R178)

A byte sequence is whole frames exactly when it is the bytes of frames whose headers announce their payloads, so
appending frames appends to the reading. Replaying the first frame of a Flush turns `PREV` into `CUR`.
-/
namespace Sys2Proof.Machine

/-! ### Parsing -/

/-- The header announces exactly the payload (R87). -/
def Frame.announced (f : Frame) : Prop := f.payload.length = payloadLength f.header

/-- What is parsed are frames whose bytes are the input. -/
theorem parseFrames_sound {fuel : Nat} {out : List Byte} {fs : List Frame}
    (h : parseFrames fuel out = some fs) :
    out = fs.flatMap Frame.bytes ∧ ∀ f ∈ fs, f.announced := by
  induction fuel generalizing out fs with
  | zero =>
    cases out with
    | nil =>
      obtain rfl : [] = fs := by simpa [parseFrames] using h
      simp
    | cons b rest => cases h
  | succ fuel ih =>
    cases out with
    | nil =>
      obtain rfl : [] = fs := by simpa [parseFrames] using h
      simp
    | cons b rest =>
      rw [parseFrames] at h
      split at h
      · cases h
      · rename_i hlen
        split at h
        · cases h
        · rename_i gs hgs
          cases h
          obtain ⟨hbytes, hgs⟩ := ih hgs
          refine ⟨?_, ?_⟩
          · rw [List.flatMap_cons, ← hbytes]
            simp [Frame.bytes]
          · rintro f (_ | ⟨_, hf⟩)
            · simp [Frame.announced]
              omega
            · exact hgs f hf

/-- The bytes of announced frames parse back. -/
theorem parseFrames_bytes {fs : List Frame} (h : ∀ f ∈ fs, f.announced) {fuel : Nat}
    (hfuel : (fs.flatMap Frame.bytes).length ≤ fuel) :
    parseFrames fuel (fs.flatMap Frame.bytes) = some fs := by
  induction fs generalizing fuel with
  | nil => cases fuel <;> rfl
  | cons f fs ih =>
    obtain ⟨hf, hfs⟩ := List.forall_mem_cons.mp h
    have hlen : payloadLength f.header = f.payload.length := hf.symm
    rw [List.flatMap_cons, Frame.bytes, List.cons_append] at hfuel ⊢
    cases fuel with
    | zero => simp at hfuel
    | succ fuel =>
      simp only [List.length_cons, List.length_append] at hfuel
      simp [parseFrames, hlen, ih hfs (fuel := fuel) (by omega)]

/-- Whole frames are the bytes of announced frames, and of only one sequence of them (R89). -/
theorem framesOf_eq_some_iff {out : List Byte} {fs : List Frame} :
    framesOf out = some fs ↔ out = fs.flatMap Frame.bytes ∧ ∀ f ∈ fs, f.announced := by
  constructor
  · exact parseFrames_sound
  · rintro ⟨rfl, h⟩
    exact parseFrames_bytes h (Nat.le_refl _)

theorem framesOf_append {a b : List Byte} {fs gs : List Frame} (ha : framesOf a = some fs)
    (hb : framesOf b = some gs) : framesOf (a ++ b) = some (fs ++ gs) := by
  obtain ⟨rfl, hfs⟩ := framesOf_eq_some_iff.mp ha
  obtain ⟨rfl, hgs⟩ := framesOf_eq_some_iff.mp hb
  refine framesOf_eq_some_iff.mpr ⟨by simp, fun f hf => ?_⟩
  exact (List.mem_append.mp hf).elim (hfs f) (hgs f)

theorem wholeFrames_iff {out : List Byte} : wholeFrames out = true ↔ ∃ fs, framesOf out = some fs := by
  rw [wholeFrames, Option.isSome_iff_exists]

/-- The sum of the delay fields of some frames. -/
def ticksOf (fs : List Frame) : Nat := (fs.map fun f => headerDelay f.header).sum

theorem ticksOf_append (fs gs : List Frame) : ticksOf (fs ++ gs) = ticksOf fs + ticksOf gs := by
  simp [ticksOf]

theorem emittedTicks_of_framesOf {out : List Byte} {fs : List Frame} (h : framesOf out = some fs) :
    emittedTicks out = ticksOf fs := by
  simp [emittedTicks, h, ticksOf]

/-! ### The frames that a Flush writes -/

/-- The frame with delay field `d` for the flags `f` (R84 to R86). -/
def frameOf (d : Nat) (f : ChangeFlags) (cur : Regs) : Frame := ⟨headerByte d f, payloadBytes f cur⟩

theorem frameOf_announced {d : Nat} (f : ChangeFlags) (cur : Regs) (hd : d < 4) :
    (frameOf d f cur).announced :=
  (payloadLength_headerByte f cur hd).symm

/-- A first frame and its continuations with the delay fields `ds`, none above 3, are whole frames that carry just
these fields. -/
theorem framesOf_flush {d : Nat} {ds : List Nat} (f : ChangeFlags) (cur : Regs) (hd : d < 4)
    (hds : ∀ e ∈ ds, e < 4) :
    ∃ fs, framesOf ((frameOf d f cur).bytes ++ ds.flatMap continuationFrame) = some fs ∧
      fs = frameOf d f cur :: ds.map (frameOf · .none cur) ∧ ticksOf fs = d + ds.sum := by
  refine ⟨_, framesOf_eq_some_iff.mpr ⟨?bytes, ?announced⟩, rfl, ?ticks⟩
  case bytes =>
    have hframe : continuationFrame = fun e => (frameOf e .none cur).bytes :=
      funext continuationFrame_eq
    rw [List.flatMap_cons, List.flatMap_map, hframe]
  case announced =>
    rintro g (_ | ⟨_, hg⟩)
    · exact frameOf_announced f cur hd
    · obtain ⟨e, he, rfl⟩ := List.mem_map.mp hg
      exact frameOf_announced _ _ (hds e he)
  case ticks =>
    have hfields : ds.map (fun e => headerDelay (headerByte e .none)) = ds :=
      (List.map_congr_left fun e he => (headerByte_fields _ (hds e he)).1).trans (List.map_id ds)
    simp only [ticksOf, List.map_cons, List.map_map, List.sum_cons, frameOf, Function.comp_def,
      (headerByte_fields f hd).1, hfields]

theorem firstFrame_eq (s : State) : firstFrame s =
    (frameOf (delayField (pendingTicks s)) (changeFlags s.cur s.prev) s.cur).bytes := rfl

/-! ### Replay -/

/-- Replay takes a payload byte where the encoder wrote one. -/
@[simp] theorem takeIf_payloadIf (flag : Bool) (b : Byte) (rest : List Byte) :
    takeIf flag (payloadIf flag b ++ rest) = (if flag then some b else none, rest) := by
  cases flag <;> rfl

@[simp] theorem takeIf_payloadIf_last (flag : Bool) (b : Byte) :
    takeIf flag (payloadIf flag b) = (if flag then some b else none, []) := by
  cases flag <;> rfl

/-- A byte register after replay: its new value where it changed, and its old, equal, value elsewhere. -/
theorem getD_payload {flag : Bool} {old new : Byte} (h : flag = false → old = new) :
    (if flag then some new else none).getD old = new := by
  cases flag with
  | true => rfl
  | false => exact h rfl

/-- A register in the low nibble of a payload byte after replay. -/
theorem lowOr_payload {flag : Bool} {b : Byte} {old new : Nibble} (hb : b.extractLsb' 0 4 = new)
    (h : flag = false → old = new) : lowOr (if flag then some b else none) old = new := by
  cases flag with
  | true => exact hb
  | false => exact h rfl

/-- A register in the high nibble of a payload byte after replay. -/
theorem highOr_payload {flag : Bool} {b : Byte} {old new : Nibble} (hb : b.extractLsb' 4 4 = new)
    (h : flag = false → old = new) : highOr (if flag then some b else none) old = new := by
  cases flag with
  | true => exact hb
  | false => exact h rfl

theorem volumePair_low (low high : Nibble) : (volumePair low high).extractLsb' 0 4 = low :=
  BitVec.extractLsb'_append_eq_right

theorem volumePair_high (low high : Nibble) : (volumePair low high).extractLsb' 4 4 = high :=
  BitVec.extractLsb'_append_eq_left

theorem noisePayload_low (noise : Nibble) : (noise.setWidth 8).extractLsb' 0 4 = noise := by
  revert noise
  decide

/-- A register whose flag is not set has not changed (R162). -/
theorem eq_of_flags_false (cur prev : Regs) :
    let f := changeFlags cur prev
    (f.tone0 = false → prev.tone0 = cur.tone0) ∧ (f.tone1 = false → prev.tone1 = cur.tone1) ∧
    (f.tone2 = false → prev.tone2 = cur.tone2) ∧ (f.noise = false → prev.noise = cur.noise) ∧
    (f.vol01 = false → prev.vol0 = cur.vol0 ∧ prev.vol1 = cur.vol1) ∧
    (f.vol2n = false → prev.vol2 = cur.vol2 ∧ prev.volN = cur.volN) := by
  simp +contextual [changeFlags]

/-- Replaying the frame of the flags between `prev` and `cur` sets the changed registers, so registers that were
`prev` become `cur` (R178). -/
theorem replayFrame_changes {d : Nat} {p : Playback} {cur prev : Regs} (hd : d < 4)
    (hp : p.regs = prev) :
    (replayFrame p (frameOf d (changeFlags cur prev) cur)).regs = cur := by
  obtain ⟨-, h0, h1, h2, h3, h4, h5⟩ := headerByte_fields (changeFlags cur prev) hd
  obtain ⟨ht0, ht1, ht2, hno, hv01, hv2n⟩ := eq_of_flags_false cur prev
  simp only [replayFrame, frameOf, h0, h1, h2, h3, h4, h5, hp, payloadBytes, List.append_assoc,
    takeIf_payloadIf, takeIf_payloadIf_last]
  rw [getD_payload ht0, getD_payload ht1, getD_payload ht2,
    lowOr_payload (noisePayload_low _) hno,
    lowOr_payload (volumePair_low _ _) (fun h => (hv01 h).1),
    highOr_payload (volumePair_high _ _) (fun h => (hv01 h).2),
    lowOr_payload (volumePair_low _ _) (fun h => (hv2n h).1),
    highOr_payload (volumePair_high _ _) (fun h => (hv2n h).2)]

/-- A frame with no flag changes no register (R178). -/
theorem replayFrame_none {d : Nat} (p : Playback) (cur : Regs) (hd : d < 4) :
    (replayFrame p (frameOf d .none cur)).regs = p.regs := by
  have h := replayFrame_changes (cur := p.regs) hd (p := p) rfl
  rwa [changeFlags_self] at h

theorem replay_none_frames (cur : Regs) (ds : List Nat) (hds : ∀ e ∈ ds, e < 4) (p : Playback) :
    ((ds.map (frameOf · .none cur)).foldl replayFrame p).regs = p.regs := by
  induction ds generalizing p with
  | nil => rfl
  | cons d ds ih =>
    obtain ⟨hd, hds⟩ := List.forall_mem_cons.mp hds
    rw [List.map_cons, List.foldl_cons, ih hds, replayFrame_none p cur hd]

/-- Frames that a Flush of changes from `prev` to `cur` appends to a buffer which replays to `prev` make it replay to
`cur` (R178, R179). -/
theorem replayOut_append_flush {out : List Byte} {cur prev : Regs} {d : Nat} {ds : List Nat} (hd : d < 4)
    (hds : ∀ e ∈ ds, e < 4) (hout : ∃ p, replayOut out = some p ∧ p.regs = prev) :
    ∃ p, replayOut (out ++ ((frameOf d (changeFlags cur prev) cur).bytes ++ ds.flatMap continuationFrame))
      = some p ∧ p.regs = cur := by
  obtain ⟨p, hreplay, hp⟩ := hout
  obtain ⟨fs, hfs, rfl⟩ := Option.map_eq_some_iff.mp hreplay
  obtain ⟨gs, hgs, rfl, -⟩ := framesOf_flush (changeFlags cur prev) cur hd hds
  refine ⟨_, by rw [replayOut, framesOf_append hfs hgs, Option.map_some], ?_⟩
  rw [replayFrames, List.foldl_append, List.foldl_cons, replay_none_frames _ _ hds]
  exact replayFrame_changes hd hp

/-! ### What either outcome of a Flush leaves -/

/-- A Flush leaves its state as it was, or it has appended a first frame and continuations that carry some of the whole
ticks pending, set `PREV`, and consumed these ticks (R169 to R173). -/
theorem flush_state_cases (s : State) :
    (flush s).state = s ∨
    ∃ (d : Nat) (ds : List Nat), d < 4 ∧ (∀ e ∈ ds, e < 4) ∧ d + ds.sum ≤ pendingTicks s ∧
      (flush s).state = { s with
        out := s.out ++ ((frameOf d (changeFlags s.cur s.prev) s.cur).bytes ++
          ds.flatMap continuationFrame)
        prev := s.cur
        pendingDelay := s.pendingDelay - (d + ds.sum) * s.cfg.tickSamples } := by
  cases hf : fits (firstFrame s).length s with
  | false => exact .inl (by rw [flush_of_firstFrame_not_fits hf, FlushResult.state_truncated])
  | true =>
    obtain ⟨ds, hds, hsum, heq⟩ := continueFrames_spec (pendingTicks s)
      (pendingTicks s - delayField (pendingTicks s)) (afterFirstFrame s)
    have hle := delayField_le (pendingTicks s)
    refine .inr ⟨delayField (pendingTicks s), ds, Nat.lt_succ_of_le (delayField_le_three _),
      fun e he => Nat.lt_succ_of_le (hds e he).2, by omega, ?_⟩
    rw [flush_of_firstFrame_fits hf, heq]
    simp [afterFirstFrame, consumeDelay, append, firstFrame_eq, Nat.sub_sub, ← Nat.add_mul]

/-- Either outcome of a Flush keeps the buffer whole frames whose replay is `PREV` (R178). -/
theorem replayIsPrev_flush {s : State} (h : replayIsPrev s) : replayIsPrev (flush s).state := by
  rcases flush_state_cases s with heq | ⟨d, ds, hd, hds, -, heq⟩
  · rwa [heq]
  · rw [heq]
    exact replayOut_append_flush hd hds h

/-- Either outcome of a Flush turns samples into ticks without loss (R176). -/
theorem flush_conserves {s : State} (h : wholeFrames s.out = true) :
    wholeFrames (flush s).state.out = true ∧
    emittedTicks (flush s).state.out * s.cfg.tickSamples + (flush s).state.pendingDelay
      = emittedTicks s.out * s.cfg.tickSamples + s.pendingDelay := by
  rcases flush_state_cases s with heq | ⟨d, ds, hd, hds, hticks, heq⟩
  · rw [heq]
    exact ⟨h, rfl⟩
  · obtain ⟨fs, hfs⟩ := wholeFrames_iff.mp h
    obtain ⟨gs, hgs, -, hsum⟩ := framesOf_flush (changeFlags s.cur s.prev) s.cur hd hds
    have hall := framesOf_append hfs hgs
    have hle : (d + ds.sum) * s.cfg.tickSamples ≤ s.pendingDelay :=
      Nat.le_trans (Nat.mul_le_mul_right _ hticks) (Nat.div_mul_le_self _ _)
    rw [heq]
    refine ⟨wholeFrames_iff.mpr ⟨_, hall⟩, ?_⟩
    rw [emittedTicks_of_framesOf hall, emittedTicks_of_framesOf hfs, ticksOf_append, hsum, Nat.add_mul]
    show _ + _ + (s.pendingDelay - _) = _
    omega

/-- Settles O35: the closed form's delay fields sum to the whole ticks pending. -/
theorem flushTurnsSamplesIntoTicks : Obligations.FlushTurnsSamplesIntoTicks := by
  unfold Obligations.FlushTurnsSamplesIntoTicks
  intro s t _ hflush
  obtain ⟨-, rfl⟩ := flush_eq_ok_iff.mp hflush
  have hd : delayField (pendingTicks s) < 4 := Nat.lt_succ_of_le (delayField_le_three _)
  obtain ⟨fs, hfs, -, hsum⟩ := framesOf_flush (changeFlags s.cur s.prev) s.cur hd
    (ds := continuationFields (pendingTicks s - delayField (pendingTicks s)))
    fun e he => Nat.lt_succ_of_le (continuationFields_le_three he)
  refine ⟨rfl, headerByte (delayField (pendingTicks s)) (changeFlags s.cur s.prev), _,
    by rw [flushed_out, flushBytes_eq]; rfl, (headerByte_fields _ hd).1, wholeFrames_iff.mpr ⟨_, hfs⟩, ?_⟩
  rw [continuationFields_sum, Nat.add_sub_cancel' (delayField_le _)] at hsum
  exact (emittedTicks_of_framesOf hfs).trans hsum

end Sys2Proof.Machine
end

section
/-!
# What commands and steps do (42_stream_control.md R140, 60_exceptions.md)

A command is badly framed, or stops for want of room, or completes, and its state decides which; so does the state of a
step, whose outcomes are listed once in `Stepped`.
-/
namespace Sys2Proof.Machine

/-! ### The fields that no Flush writes (R161) -/

section
variable (s : State)

@[simp] theorem flush_state_cfg : (flush s).state.cfg = s.cfg := by
  obtain ⟨_, _, _, h⟩ := flush_state_frame s; rw [h]
@[simp] theorem flush_state_src : (flush s).state.src = s.src := by
  obtain ⟨_, _, _, h⟩ := flush_state_frame s; rw [h]
@[simp] theorem flush_state_pc : (flush s).state.pc = s.pc := by
  obtain ⟨_, _, _, h⟩ := flush_state_frame s; rw [h]
@[simp] theorem flush_state_cur : (flush s).state.cur = s.cur := by
  obtain ⟨_, _, _, h⟩ := flush_state_frame s; rw [h]
@[simp] theorem flush_state_latch : (flush s).state.latch = s.latch := by
  obtain ⟨_, _, _, h⟩ := flush_state_frame s; rw [h]
@[simp] theorem flush_state_status : (flush s).state.status = s.status := by
  obtain ⟨_, _, _, h⟩ := flush_state_frame s; rw [h]
@[simp] theorem flush_state_errOffset : (flush s).state.errOffset = s.errOffset := by
  obtain ⟨_, _, _, h⟩ := flush_state_frame s; rw [h]
@[simp] theorem flush_state_unknownLog : (flush s).state.unknownLog = s.unknownLog := by
  obtain ⟨_, _, _, h⟩ := flush_state_frame s; rw [h]

end

theorem flush_of_flushFits_false {s : State} (h : flushFits s = false) :
    flush s = .truncated (flush s).state := by
  obtain ⟨t, ht⟩ := flush_truncated_iff.mpr h
  rw [ht, FlushResult.state_truncated]

/-! ### What a command that completes leaves in each field -/

section
variable (i : Instr) (s : State)

@[simp] theorem complete_cfg : (complete i s).cfg = s.cfg := by cases i <;> rfl
@[simp] theorem complete_src : (complete i s).src = s.src := by cases i <;> rfl
@[simp] theorem complete_pc : (complete i s).pc = s.pc + i.length := by cases i <;> rfl
@[simp] theorem complete_prev : (complete i s).prev = s.prev := by cases i <;> rfl
@[simp] theorem complete_out : (complete i s).out = s.out := by cases i <;> rfl
@[simp] theorem complete_errOffset : (complete i s).errOffset = s.errOffset := by cases i <;> rfl
@[simp] theorem complete_pendingDelay :
    (complete i s).pendingDelay = s.pendingDelay + samplesOf i := by cases i <;> rfl

@[simp] theorem complete_eod : complete .eod s = halt .doneEnd (advance 1 s) := rfl

theorem complete_status_of_ne_eod (h : i ≠ .eod) : (complete i s).status = s.status := by
  cases i with
  | eod => exact absurd rfl h
  | _ => rfl

end

/-- A command that flushes waits for no sample (R120, R160). -/
theorem samplesOf_of_flushesIn {i : Instr} {s : State} (h : flushesIn i s) : samplesOf i = 0 := by
  cases i with
  | skip1 | waitN | wait60 | wait50 | waitS | unknown => exact h.elim
  | psgwL | psgwD | eod => rfl

theorem instrLength_bounds (i : Instr) : 1 ≤ i.length ∧ i.length ≤ 3 := by
  cases i <;> simp [Instr.length]

/-! ### What a command does, from its state -/

/-- The outcomes of a command, told apart by the bound test and by the room for its Flush. -/
theorem exec_outcomes {i : Instr} {s t : State} (h : exec i s = .next t) :
    (1 < i.length ∧ s.cfg.maxOffset < s.pc + i.length ∧ t = raise (.framing s.pc) s) ∨
    (framedIn i s ∧ flushesIn i s ∧ flushFits s = false ∧ t = raise .capacity (flush s).state) ∨
    (framedIn i s ∧ ∃ u, t = complete i u ∧
      (¬flushesIn i s ∧ u = s ∨ flushesIn i s ∧ flushFits s = true ∧ u = flushed s)) := by
  rcases exec_cases h with hbad | ⟨hf, hfl, u, hu, rfl⟩ | ⟨hf, u, rfl, hu⟩
  · exact .inl hbad
  · refine .inr (.inl ⟨hf, hfl, flush_truncated_iff.mp ⟨u, hu⟩, ?_⟩)
    rw [hu, FlushResult.state_truncated]
  · exact .inr (.inr ⟨hf, u, rfl, hu.imp_right fun ⟨hfl, hok⟩ => ⟨hfl, flush_eq_ok_iff.mp hok⟩⟩)

/-- A command is badly framed or framed, not both. -/
theorem not_framedIn {i : Instr} {s : State} (h1 : 1 < i.length)
    (hlt : s.cfg.maxOffset < s.pc + i.length) : ¬framedIn i s := by
  rintro (h | h) <;> omega

theorem exec_of_badlyFramed {i : Instr} {s : State} (h1 : 1 < i.length)
    (hlt : s.cfg.maxOffset < s.pc + i.length) : exec i s = .next (raise (.framing s.pc) s) := by
  obtain ⟨t, ht⟩ := exec_total i s
  rcases exec_outcomes ht with ⟨-, -, rfl⟩ | ⟨hf, -⟩ | ⟨hf, -⟩
  · exact ht
  · exact absurd hf (not_framedIn h1 hlt)
  · exact absurd hf (not_framedIn h1 hlt)

theorem exec_of_no_flush {i : Instr} {s : State} (hf : framedIn i s) (hfl : ¬flushesIn i s) :
    exec i s = .next (complete i s) := by
  obtain ⟨t, ht⟩ := exec_total i s
  rcases exec_outcomes ht with ⟨h1, hlt, -⟩ | ⟨-, hfl', -⟩ | ⟨-, u, rfl, ⟨-, rfl⟩ | ⟨hfl', -⟩⟩
  · exact absurd hf (not_framedIn h1 hlt)
  · exact absurd hfl' hfl
  · exact ht
  · exact absurd hfl' hfl

theorem exec_of_room {i : Instr} {s : State} (hf : framedIn i s) (hfl : flushesIn i s)
    (hroom : flushFits s = true) : exec i s = .next (complete i (flushed s)) := by
  obtain ⟨t, ht⟩ := exec_total i s
  rcases exec_outcomes ht with ⟨h1, hlt, -⟩ | ⟨-, -, hno, -⟩ | ⟨-, u, rfl, ⟨hno, -⟩ | ⟨-, -, rfl⟩⟩
  · exact absurd hf (not_framedIn h1 hlt)
  · exact absurd hroom (by simp [hno])
  · exact absurd hfl hno
  · exact ht

theorem exec_of_no_room {i : Instr} {s : State} (hf : framedIn i s) (hfl : flushesIn i s)
    (hroom : flushFits s = false) : exec i s = .next (raise .capacity (flush s).state) := by
  obtain ⟨t, ht⟩ := exec_total i s
  rcases exec_outcomes ht with ⟨h1, hlt, -⟩ | ⟨-, -, -, rfl⟩ | ⟨-, u, -, ⟨hno, -⟩ | ⟨-, hyes, -⟩⟩
  · exact absurd hf (not_framedIn h1 hlt)
  · exact ht
  · exact absurd hfl hno
  · exact absurd hyes (by simp [hroom])

/-! ### The fetch -/

/-- A fetched command lies below `MAX_OFFSET` with its whole length (R79). -/
theorem fetch_command_framed {s : State} {i : Instr} (h : fetch s = .command i) :
    s.pc + i.length ≤ s.cfg.maxOffset := by
  obtain ⟨-, -, op, operands, rest, -, hframed, -, hdec⟩ := fetch_eq_command h
  rw [List.cons_append] at hdec
  rwa [(decode_eq_command hdec).2.1]

/-- A command that extends past `MAX_OFFSET` is badly framed by its opcode byte alone (R79, R205). -/
theorem fetch_of_badlyFramed {s : State} {op : Byte} (hop : srcByte s s.pc = some op)
    (hlt : s.cfg.maxOffset < s.pc + commandLength s.cfg.ops op) : fetch s = .badlyFramed := by
  obtain ⟨hstart, hmax, -⟩ := srcByte_eq_some.mp hop
  have hw : wellFramed (classify s.cfg.ops op).length s = false := by
    rw [Bool.eq_false_iff, ne_eq, wellFramed_iff]
    exact Nat.not_le.mpr hlt
  rw [fetch, if_neg (not_not_intro ⟨hstart, hmax⟩)]
  simp [hop, hw]

/-- A MemRead inside the bounds of a loaded stream answers (R51, R225). -/
theorem memRead_of_loaded {s : State} (hl : loaded s) {addr n : Nat} (hstart : s.cfg.startOffset ≤ addr)
    (hmax : addr + n ≤ s.cfg.maxOffset) : ∃ bytes, memRead s addr n = some bytes := by
  induction n generalizing addr with
  | zero => exact ⟨[], rfl⟩
  | succ n ih =>
    obtain ⟨b, hb⟩ := hl addr hstart (by omega)
    obtain ⟨bs, hbs⟩ := ih (addr := addr + 1) (by omega) (by omega)
    exact ⟨b :: bs, memRead_succ_eq_some.mpr
      ⟨b, bs, rfl, srcByte_eq_some.mpr ⟨hstart, by omega, hb⟩, hbs⟩⟩

/-- The bytes that the fetch puts together have the length that their opcode byte claims (R53, R78). -/
theorem fetched_length {m : OpMap} {op : Byte} {operands : List Byte}
    (h : operands.length = operandsRead (classify m op)) :
    (op :: operands ++ operandsUnread (classify m op)).length = commandLength m op := by
  have := operandsRead_add_unread (classify m op)
  simp only [List.length_append, List.length_cons, h, commandLength]
  omega

/-- In a loaded stream the fetch finds a command or a bad framing (R52). -/
theorem fetch_of_loaded {s : State} (hl : loaded s) (hstart : s.cfg.startOffset ≤ s.pc)
    (hmax : s.pc < s.cfg.maxOffset) : (∃ i, fetch s = .command i) ∨ fetch s = .badlyFramed := by
  obtain ⟨op, hop⟩ := hl s.pc hstart hmax
  have hop : srcByte s s.pc = some op := srcByte_eq_some.mpr ⟨hstart, hmax, hop⟩
  rcases Nat.lt_or_ge s.cfg.maxOffset (s.pc + commandLength s.cfg.ops op) with hlt | hle
  · exact .inr (fetch_of_badlyFramed hop hlt)
  · have hreads := operandsRead_add_unread (classify s.cfg.ops op)
    rw [commandLength] at hle
    obtain ⟨operands, hoperands⟩ := memRead_of_loaded hl (addr := s.pc + 1)
      (n := operandsRead (classify s.cfg.ops op)) (by omega) (by omega)
    obtain ⟨i, -, hdec⟩ := decode_of_length_le (Nat.le_of_eq (fetched_length (memRead_length hoperands).1).symm)
    exact .inl ⟨i, fetch_of_decode hop hle hoperands hdec⟩

/-! ### The step -/

theorem step_of_halted {s : State} (hv : configValid s.cfg = true) (hs : halted s) :
    step s = .next s := by
  unfold step
  exact (if_neg (by simp [hv])).trans (if_pos hs)

theorem step_of_command {s : State} {i : Instr} (hv : configValid s.cfg = true)
    (hr : s.status = .running) (hf : fetch s = .command i) : step s = exec i s := by
  obtain ⟨-, hlt, -⟩ := fetch_eq_command hf
  rw [step_of_fetch hv hr (Nat.ne_of_lt hlt), hf]

theorem step_of_badlyFramed {s : State} (hv : configValid s.cfg = true) (hr : s.status = .running)
    (hpc : s.pc ≠ s.cfg.maxOffset) (hf : fetch s = .badlyFramed) :
    step s = .next (raise (.framing s.pc) s) := by
  rw [step_of_fetch hv hr hpc, hf]

theorem exhaustionStep_of_room {s : State} (h : flushFits s = true) :
    exhaustionStep s = .next (halt .doneExhausted (flushed s)) := by
  rw [exhaustionStep, flush_of_room h, afterFlush_ok]

theorem exhaustionStep_of_no_room {s : State} (h : flushFits s = false) :
    exhaustionStep s = .next (raise .capacity (flush s).state) := by
  rw [exhaustionStep, flush_of_flushFits_false h, afterFlush_truncated, FlushResult.state_truncated]

/-- Everything a step with a next state can be, each with what decides it. -/
inductive Stepped (s : State) : State → Prop
  /-- A halted state stays (R199). -/
  | stays (hs : halted s) : Stepped s s
  /-- The stream is exhausted and the final Flush completes (R141). -/
  | exhausts (hr : s.status = .running) (hpc : s.pc = s.cfg.maxOffset) (hroom : flushFits s = true) :
      Stepped s (halt .doneExhausted (flushed s))
  /-- The command at `PC` extends past `MAX_OFFSET` (R191). -/
  | faults (hr : s.status = .running) (hpc : s.pc ≠ s.cfg.maxOffset) (hf : fetch s = .badlyFramed) :
      Stepped s (raise (.framing s.pc) s)
  /-- A Flush finds no room, at exhaustion or in a command (R193). -/
  | stops (hr : s.status = .running) (hroom : flushFits s = false)
      (hcause : s.pc = s.cfg.maxOffset ∨ ∃ i, fetch s = .command i ∧ flushesIn i s) :
      Stepped s (raise .capacity (flush s).state)
  /-- A command that invokes no Flush completes. -/
  | completes {i : Instr} (hr : s.status = .running) (hf : fetch s = .command i)
      (hfl : ¬flushesIn i s) : Stepped s (complete i s)
  /-- A command completes after its Flush. -/
  | flushes {i : Instr} (hr : s.status = .running) (hf : fetch s = .command i)
      (hfl : flushesIn i s) (hroom : flushFits s = true) : Stepped s (complete i (flushed s))

/-- What a step answers is in the list. -/
theorem stepped_of_step {s t : State} (h : step s = .next t) :
    configValid s.cfg = true ∧ Stepped s t := by
  obtain ⟨hv, ⟨hs, rfl⟩ | ⟨hr, hpc, hex⟩ | ⟨hr, hpc, i, hf, hi⟩ | ⟨hr, hpc, hf, rfl⟩⟩ := step_eq_next h
  · exact ⟨hv, .stays hs⟩
  · refine ⟨hv, ?_⟩
    cases hroom : flushFits s with
    | true =>
      rw [exhaustionStep_of_room hroom] at hex
      exact Host.Outcome.next.inj hex ▸ .exhausts hr hpc hroom
    | false =>
      rw [exhaustionStep_of_no_room hroom] at hex
      exact Host.Outcome.next.inj hex ▸ .stops hr hroom (.inl hpc)
  · refine ⟨hv, ?_⟩
    rcases exec_outcomes hi with ⟨h1, hlt, -⟩ | ⟨-, hfl, hroom, rfl⟩ |
      ⟨-, u, rfl, ⟨hfl, rfl⟩ | ⟨hfl, hroom, rfl⟩⟩
    · exact absurd hlt (Nat.not_lt.mpr (fetch_command_framed hf))
    · exact .stops hr hroom (.inr ⟨i, hf, hfl⟩)
    · exact .completes hr hf hfl
    · exact .flushes hr hf hfl hroom
  · exact ⟨hv, .faults hr hpc hf⟩

/-! ### The obligations -/

/-- The step from bytes that decode to a command, whatever stands after them: SKIP1 is fetched with 0 for its operand
byte, and every other command as it stands (R53). -/
theorem step_of_decode {s : State} {n : Nat} {bytes : List Byte} {i : Instr}
    (hv : configValid s.cfg = true) (hr : s.status = .running) (hread : memRead s s.pc n = some bytes)
    (hdec : decode s.cfg.ops bytes = .command i []) : step s = exec i s := by
  obtain ⟨hlen, hbounds⟩ := memRead_length hread
  obtain _ | ⟨op, after⟩ := bytes
  · cases hdec
  have hlength := length_eq_of_decode hdec
  obtain ⟨k, rfl⟩ : ∃ k, n = k + 1 := ⟨after.length, by simpa using hlen.symm⟩
  obtain ⟨b, bs, hcons, hop, hafter⟩ := memRead_succ_eq_some.mp hread
  obtain ⟨rfl, rfl⟩ := List.cons.inj hcons
  have hframed : s.pc + commandLength s.cfg.ops op ≤ s.cfg.maxOffset := by
    rw [← hlength, hlen]
    exact (hbounds (Nat.succ_pos k)).2
  by_cases hskip : classify s.cfg.ops op = .skipSecondaryByte
  · have hfetch : fetch s = .command (.skip1 0#8) :=
      fetch_of_decode hop hframed (operands := []) (by rw [hskip]; rfl)
        (by rw [hskip, List.cons_append, decode_cons, hskip]; rfl)
    rw [step_of_command hv hr hfetch]
    rw [decode_cons, hskip] at hdec
    obtain _ | ⟨b, rest⟩ := after
    · cases hdec
    · cases hdec
      exact exec_skip1_eq _ _ s
  · have hunread := operandsUnread_eq_nil hskip
    have hk : k = operandsRead (classify s.cfg.ops op) := by
      have := operandsRead_add_unread (classify s.cfg.ops op)
      rw [hunread] at this
      rw [hlen, commandLength] at hlength
      simp at this
      omega
    exact step_of_command hv hr (fetch_of_decode hop hframed (hk ▸ hafter)
      (by rw [hunread, List.append_nil]; exact hdec))

/-- Settles O7, by `step_of_decode`. -/
theorem stepRunsTheDecodedCommand : Obligations.StepRunsTheDecodedCommand := by
  unfold Obligations.StepRunsTheDecodedCommand
  exact fun s n bytes i hv hr hread hdec => step_of_decode hv hr hread hdec

/-- A MemRead of bytes that are in place one by one (R52). -/
theorem memRead_of_srcByte {s : State} {addr : Nat} {bytes : List Byte}
    (h : ∀ (j : Nat) (hj : j < bytes.length), srcByte s (addr + j) = some bytes[j]) :
    memRead s addr bytes.length = some bytes := by
  induction bytes generalizing addr with
  | nil => rfl
  | cons b bs ih =>
    refine memRead_succ_eq_some.mpr ⟨b, bs, rfl, h 0 (Nat.succ_pos _), ih fun j hj => ?_⟩
    rw [Nat.add_assoc, Nat.add_comm 1 j]
    exact h (j + 1) (Nat.succ_lt_succ hj)

theorem commandLength_bounds (m : OpMap) (op : Byte) :
    1 ≤ commandLength m op ∧ commandLength m op ≤ 3 := by
  rw [commandLength]
  cases classify m op <;> decide

/-- The loader's placing makes a proper configuration with `PC` in bounds (R224). -/
theorem configValid_placeAtPc {bytes : List Byte} {s : State} (h : 0 < s.cfg.tickSamples) :
    configValid (placeAtPc bytes s).cfg = true := by
  refine configValid_iff.mpr ⟨?_, Nat.le_max_right _ _, h, OpMap.decided_wf⟩
  show min s.cfg.startOffset s.pc ≤ max s.cfg.maxOffset (s.pc + bytes.length)
  omega

/-- The placed bytes stand at `PC` and after it. -/
theorem srcByte_placeAtPc (bytes : List Byte) (s : State) (j : Nat) (hj : j < bytes.length) :
    srcByte (placeAtPc bytes s) (s.pc + j) = some bytes[j] := by
  refine srcByte_eq_some.mpr ⟨?_, ?_, Memory.read_load _ _ _ _ hj⟩
  · show min s.cfg.startOffset s.pc ≤ s.pc + j
    omega
  · show s.pc + j < max s.cfg.maxOffset (s.pc + bytes.length)
    omega

/-- Settles O8: the placed bytes begin with the encoding of the command that they decode to. -/
theorem placedTableWordRunsNext : Obligations.PlacedTableWordRunsNext := by
  unfold Obligations.PlacedTableWordRunsNext
  intro s nbits w hticks
  obtain ⟨i, -, hdec⟩ := decode_of_length_le (m := OpMap.decided)
    (show _ ≤ (tableWordBytes nbits w).length from (commandLength_bounds _ _).2)
  change decode OpMap.decided (tableWordBytes nbits w) = _ at hdec
  refine ⟨i, by rw [decodeTableWord, hdec], ?_⟩
  obtain ⟨hwf, hbytes⟩ := decodedBytesAreTheEncoding _ _ _ _ OpMap.decided_wf hdec
  have hplaced (j : Nat) (hj : j < (encode OpMap.decided i).length) :
      srcByte (s.withFetchWord nbits w) (s.pc + j) = some (encode OpMap.decided i)[j] := by
    have hlt : j < (tableWordBytes nbits w).length := by
      rw [hbytes, List.length_append]
      omega
    rw [State.withFetchWord, srcByte_placeAtPc _ _ _ hlt, List.getElem_of_eq hbytes,
      List.getElem_append_left hj]
  have hback := decodeOfEncodeIsTheCommand _ i [] OpMap.decided_wf hwf
  rw [List.append_nil] at hback
  exact step_of_decode (configValid_placeAtPc hticks) rfl (memRead_of_srcByte hplaced) hback

/-- Settles O9, by the two outcomes of the final Flush. -/
theorem exhaustionFlushesAndHalts : Obligations.ExhaustionFlushesAndHalts := by
  unfold Obligations.ExhaustionFlushesAndHalts
  intro s hv hr hpc
  rw [step_of_exhausted hv hr hpc]
  exact ⟨fun hroom => exhaustionStep_of_room hroom,
    fun hroom => ⟨_, exhaustionStep_of_no_room hroom, rfl, by simp, by simp, by simp⟩⟩

/-- Settles O10: the fetch needs only the opcode byte to find the bad framing. -/
theorem badlyFramedStepRaisesFraming : Obligations.BadlyFramedStepRaisesFraming := by
  unfold Obligations.BadlyFramedStepRaisesFraming
  intro s op hv hr hstart hmax hop hlt
  exact step_of_badlyFramed hv hr (Nat.ne_of_lt hmax)
    (fetch_of_badlyFramed (srcByte_eq_some.mpr ⟨hstart, hmax, hop⟩) hlt)

/-- Settles O11, by induction on the number of steps. -/
theorem haltedStatesAreAbsorbing : Obligations.HaltedStatesAreAbsorbing := by
  unfold Obligations.HaltedStatesAreAbsorbing
  intro k s hv hs
  induction k with
  | zero => rfl
  | succ k ih => rw [run_succ_of_next (step_of_halted hv hs), ih]

/-- A step is refused for its configuration alone (U6). -/
theorem step_refused_iff {s : State} : (∃ r, step s = .refused r) ↔ configValid s.cfg = false := by
  constructor
  · rintro ⟨r, hr⟩
    unfold step at hr
    split at hr
    · assumption
    split at hr
    · cases hr
    split at hr
    · obtain ⟨t, ht⟩ := afterFlush_total (flush s) (halt .doneExhausted)
      rw [exhaustionStep, ht] at hr
      cases hr
    split at hr
    · rename_i i _
      obtain ⟨t, ht⟩ := exec_total i s
      rw [ht] at hr
      cases hr
    · cases hr
    · cases hr
  · intro hv
    exact ⟨.badConfiguration, by rw [step, if_pos hv]⟩

/-- What a proper map is, with the family's base on naturals (R5). -/
theorem OpMap.wf_iff {m : OpMap} : m.wf = true ↔
    m.singles.Nodup ∧
    (∀ op ∈ m.singles, ¬(m.waitShortBase.toNat ≤ op.toNat ∧ op.toNat ≤ m.waitShortBase.toNat + 15)) ∧
    m.waitShortBase.toNat % 16 = 0 := by
  have hlow : m.waitShortBase.extractLsb' 0 4 = 0#4 ↔ m.waitShortBase.toNat % 16 = 0 := by
    rw [← BitVec.toNat_inj]
    simp [BitVec.extractLsb'_toNat]
  simp only [OpMap.wf, Bool.and_eq_true, decide_eq_true_eq, List.all_eq_true, Bool.not_eq_true',
    Bool.eq_false_iff, ne_eq, OpMap.inShortFamily_iff, hlow, and_assoc]

/-- Settles O12: the refusal is the test of the configuration, written out. -/
theorem onlyBadConfigurationsAreRefused : Obligations.OnlyBadConfigurationsAreRefused := by
  unfold Obligations.OnlyBadConfigurationsAreRefused
  intro s
  rw [step_refused_iff, ← Bool.not_eq_true, configValid_iff, OpMap.wf_iff]

/-- Settles O13: a loaded state has a next state whether it is halted, exhausted, or fetches. -/
theorem loadedStatesAlwaysStep : Obligations.LoadedStatesAlwaysStep := by
  unfold Obligations.LoadedStatesAlwaysStep
  intro s hv hstart hmax hl
  by_cases hr : s.status = .running
  · by_cases hpc : s.pc = s.cfg.maxOffset
    · rw [step_of_exhausted hv hr hpc]
      exact afterFlush_total _ _
    · rcases fetch_of_loaded hl hstart (by omega) with ⟨i, hf⟩ | hf
      · rw [step_of_command hv hr hf]
        exact exec_total i s
      · exact ⟨_, step_of_badlyFramed hv hr hpc hf⟩
  · exact ⟨s, step_of_halted hv hr⟩

/-- Settles O14, by the outcomes of a step. -/
theorem eachStepHaltsOrAdvances : Obligations.EachStepHaltsOrAdvances := by
  unfold Obligations.EachStepHaltsOrAdvances
  intro s t hr hmax hstep
  have completed {i : Instr} (u : State) (hf : fetch s = .command i) (hpc : u.pc = s.pc)
      (hu : u.status = .running) :
      (halted (complete i u) ∧ s.pc ≤ (complete i u).pc ∧ (complete i u).pc ≤ s.cfg.maxOffset) ∨
      ((complete i u).status = .running ∧ s.pc < (complete i u).pc ∧
        (complete i u).pc ≤ s.pc + 3 ∧ (complete i u).pc ≤ s.cfg.maxOffset) := by
    have hframed := fetch_command_framed hf
    have hlen := instrLength_bounds i
    rw [complete_pc, hpc]
    by_cases he : i = .eod
    · subst he
      exact .inl ⟨by simp [halted], by omega, hframed⟩
    · exact .inr ⟨(complete_status_of_ne_eod i u he).trans hu, by omega, by omega, hframed⟩
  obtain ⟨-, hstepped⟩ := stepped_of_step hstep
  cases hstepped with
  | stays hs => exact absurd hr hs
  | exhausts => exact .inl ⟨by simp [halted], (Nat.le_refl _), hmax⟩
  | faults => exact .inl ⟨by simp [halted], (Nat.le_refl _), hmax⟩
  | stops => exact .inl ⟨by simp [halted], by simp, by simpa using hmax⟩
  | completes _ hf => exact completed s hf rfl hr
  | flushes _ hf => exact completed (flushed s) hf rfl hr

/-- Settles O23, by the outcomes of a step. -/
theorem stepKeepsConfigurationAndSource : Obligations.StepKeepsConfigurationAndSource := by
  unfold Obligations.StepKeepsConfigurationAndSource
  intro s t hstep
  have hkeep : t.cfg = s.cfg ∧ t.src = s.src := by
    obtain ⟨-, hstepped⟩ := stepped_of_step hstep
    cases hstepped <;> simp
  exact ⟨hkeep.1, hkeep.2, fun hwf => hkeep.2 ▸ hwf⟩

/-- A running pass in bounds with fewer than `k` bytes left halts within `k` steps: each step that does not halt moves
`PC` forward (R18). -/
theorem run_halts {k : Nat} {s : State} (hv : configValid s.cfg = true) (hl : loaded s)
    (hstart : s.cfg.startOffset ≤ s.pc) (hmax : s.pc ≤ s.cfg.maxOffset)
    (hk : s.cfg.maxOffset - s.pc < k) :
    ∃ t : State, Host.Core.run Sys2Proof.core k s = .next t ∧ halted t := by
  induction k generalizing s with
  | zero => omega
  | succ k ih =>
    by_cases hr : s.status = .running
    · obtain ⟨t, hstep⟩ := loadedStatesAlwaysStep s hv hstart hmax hl
      obtain ⟨hcfg, hsrc, -⟩ := stepKeepsConfigurationAndSource s t hstep
      rw [run_succ_of_next hstep]
      rcases eachStepHaltsOrAdvances s t hr hmax hstep with ⟨ht, -⟩ | ⟨-, hlt, -, hle⟩
      · exact ⟨t, haltedStatesAreAbsorbing k t (hcfg ▸ hv) ht, ht⟩
      · refine ih (hcfg ▸ hv) ?_ ?_ ?_ ?_
        · unfold loaded
          rw [hcfg, hsrc]
          exact hl
        all_goals rw [hcfg]; omega
    · exact ⟨s, haltedStatesAreAbsorbing _ s hv hr, hr⟩

/-- Settles O15: reset starts at `START_OFFSET`, in bounds. -/
theorem everyPassHalts : Obligations.EveryPassHalts := by
  unfold Obligations.EveryPassHalts
  intro cfg src hv hl
  obtain ⟨hle, -⟩ := configValid_iff.mp hv
  exact run_halts hv hl (Nat.le_refl _) hle (Nat.lt_succ_self _)

/-- Settles O54: SKIP1 is fetched from its opcode byte, with 0 in place of the byte it skips. -/
theorem skipNeedsNoOperandByte : Obligations.SkipNeedsNoOperandByte := by
  unfold Obligations.SkipNeedsNoOperandByte
  intro s hv hr hstart hmax hop
  obtain ⟨-, -, -, hm⟩ := configValid_iff.mp hv
  have hclass : classify s.cfg.ops s.cfg.ops.skip1 = .skipSecondaryByte := classify_of_hasOpcode hm rfl
  have hfetch : fetch s = .command (.skip1 0#8) :=
    fetch_of_decode (srcByte_eq_some.mpr ⟨hstart, by omega, hop⟩)
      (by rw [commandLength, hclass]; exact hmax) (operands := []) (by rw [hclass]; rfl)
      (by rw [hclass, List.cons_append, decode_cons, hclass]; rfl)
  rw [step_of_command hv hr hfetch, exec_of_no_flush (.inr hmax) id]
  rfl

end Sys2Proof.Machine
end

section
/-!
# Invariants of a pass (10_state.md R40, 43_frame_encoder.md R176 to R179)

Each invariant is checked against the outcomes of a step; a run keeps what every step keeps.
-/
namespace Sys2Proof.Machine

/-- What every step keeps, a run keeps. -/
theorem run_keeps {P : State → Prop} (hstep : ∀ s t, P s → step s = .next t → P t) {k : Nat} {s t : State}
    (hs : P s) (hrun : Host.Core.run Sys2Proof.core k s = .next t) : P t := by
  induction k generalizing s with
  | zero => exact Host.Outcome.next.inj hrun ▸ hs
  | succ k ih =>
    obtain ⟨u, hu, hrest⟩ := run_succ_eq_next hrun
    exact ih (hstep s u hs hu) hrest

/-! ### The structural invariant -/

/-- No outcome of a Flush writes past the capacity (R55). -/
theorem flush_state_out_le {s : State} (h : s.out.length ≤ s.cfg.outCapacity) :
    (flush s).state.out.length ≤ s.cfg.outCapacity := by
  cases hroom : flushFits s with
  | true =>
    rw [flush_of_room hroom, FlushResult.state_ok, flushed_out, List.length_append]
    exact fits_iff.mp hroom
  | false =>
    rcases flush_of_no_room hroom with ⟨-, heq⟩ | ⟨-, n, -, hfull, heq⟩
    · rwa [heq]
    · rw [heq]
      simpa [Nat.add_assoc] using Nat.le_of_eq hfull

theorem flushed_eq_flush_state {s : State} (h : flushFits s = true) : flushed s = (flush s).state := by
  rw [flush_of_room h, FlushResult.state_ok]

/-- A command that does not halt keeps the invariant where it keeps `PC` in bounds. -/
theorem inv_complete_running {i : Instr} {u : State} (hu : Inv u) (hr : u.status = .running) (he : i ≠ .eod)
    (hle : u.pc + i.length ≤ u.cfg.maxOffset) : Inv (complete i u) := by
  have hstatus := (complete_status_of_ne_eod i u he).trans hr
  exact {
    startLePc := by simpa using Nat.le_trans hu.startLePc (Nat.le_add_right _ _)
    pcLeMax := by simpa using hle
    outLeCapacity := by simpa using hu.outLeCapacity
    doneEmitted := fun h => by simp [hstatus] at h
    framingOffset := fun h => by simp [hstatus] at h
    noErrOffset := fun _ => by simpa using hu.noErrOffset (by simp [hr]) }

/-- A whole Flush of a running state keeps the invariant. -/
theorem inv_flushed {s : State} (hs : Inv s) (hr : s.status = .running) (hroom : flushFits s = true) :
    Inv (flushed s) where
  startLePc := hs.startLePc
  pcLeMax := hs.pcLeMax
  outLeCapacity := by
    have hle := flush_state_out_le hs.outLeCapacity
    rwa [← flushed_eq_flush_state hroom] at hle
  doneEmitted := fun h => by simp [hr] at h
  framingOffset := fun h => by simp [hr] at h
  noErrOffset := hs.noErrOffset

/-- A halt after a whole Flush, with `PC` anywhere in bounds, keeps the invariant: everything is emitted (R40 (e)). -/
theorem inv_halt_flushed {s : State} {cause : Status} {len : Nat} (hs : Inv s) (hr : s.status = .running)
    (hroom : flushFits s = true) (hticks : 0 < s.cfg.tickSamples) (hle : s.pc + len ≤ s.cfg.maxOffset)
    (hcause : cause ≠ .faultFraming) : Inv (halt cause (advance len (flushed s))) where
  startLePc := by simpa using Nat.le_trans hs.startLePc (Nat.le_add_right _ _)
  pcLeMax := hle
  outLeCapacity := (inv_flushed hs hr hroom).outLeCapacity
  doneEmitted := fun _ => ⟨rfl, Nat.mod_lt _ hticks⟩
  framingOffset := fun h => absurd h hcause
  noErrOffset := fun _ => hs.noErrOffset (by simp [hr])

/-- Settles O16: every field is the one that `State.resetWith` gives. -/
theorem resetLeavesTheListedValues : Obligations.ResetLeavesTheListedValues := by
  unfold Obligations.ResetLeavesTheListedValues
  intro cfg src s
  exact ⟨rfl, rfl, rfl, rfl, rfl, rfl, rfl, rfl, rfl, rfl, rfl⟩

/-- Settles O17: after reset `PC` is `START_OFFSET` and `OUT` is empty, which is no frames. -/
theorem resetHasTheInvariant : Obligations.ResetHasTheInvariant := by
  unfold Obligations.ResetHasTheInvariant
  refine ⟨fun cfg src hv => ⟨?inv, _, rfl, rfl⟩, State.reset_src_wf⟩
  exact {
    startLePc := (Nat.le_refl _)
    pcLeMax := (configValid_iff.mp hv).1
    outLeCapacity := Nat.zero_le _
    doneEmitted := nofun
    framingOffset := nofun
    noErrOffset := fun _ => rfl }

/-- Settles O18, by the outcomes of a step. -/
theorem stepKeepsTheInvariant : Obligations.StepKeepsTheInvariant := by
  unfold Obligations.StepKeepsTheInvariant
  intro s t hs hstep
  obtain ⟨hv, hstepped⟩ := stepped_of_step hstep
  obtain ⟨-, -, hticks, -⟩ := configValid_iff.mp hv
  cases hstepped with
  | stays => exact hs
  | exhausts hr hpc hroom =>
    exact inv_halt_flushed (len := 0) hs hr hroom hticks hs.pcLeMax (by simp)
  | faults hr hpc hf =>
    exact {
      startLePc := hs.startLePc
      pcLeMax := hs.pcLeMax
      outLeCapacity := hs.outLeCapacity
      doneEmitted := fun h => by simp at h
      framingOffset := fun _ => ⟨rfl, Nat.lt_of_le_of_ne hs.pcLeMax hpc⟩
      noErrOffset := fun h => by simp at h }
  | stops hr hroom hcause =>
    exact {
      startLePc := by simpa using hs.startLePc
      pcLeMax := by simpa using hs.pcLeMax
      outLeCapacity := by simpa using flush_state_out_le hs.outLeCapacity
      doneEmitted := fun h => by simp at h
      framingOffset := fun h => by simp at h
      noErrOffset := fun _ => by simpa using hs.noErrOffset (by simp [hr]) }
  | completes hr hf hfl =>
    exact inv_complete_running hs hr (by rintro rfl; exact hfl trivial) (fetch_command_framed hf)
  | @flushes i hr hf hfl hroom =>
    by_cases he : i = .eod
    · subst he
      exact inv_halt_flushed (len := 1) hs hr hroom hticks (fetch_command_framed hf) (by simp)
    · exact inv_complete_running (inv_flushed hs hr hroom) hr he (by simpa using fetch_command_framed hf)

/-! ### Replay -/

/-- Settles O19: a step changes `OUT` and `PREV` only by a Flush, which keeps their agreement. -/
theorem stepKeepsReplayEqualToPrev : Obligations.StepKeepsReplayEqualToPrev := by
  unfold Obligations.StepKeepsReplayEqualToPrev
  intro s t hs hstep
  have hflush := replayIsPrev_flush hs
  obtain ⟨-, hstepped⟩ := stepped_of_step hstep
  cases hstepped with
  | stays => exact hs
  | exhausts _ _ hroom => rwa [← flushed_eq_flush_state hroom] at hflush
  | faults => exact hs
  | stops => exact hflush
  | completes => simpa [replayIsPrev] using hs
  | flushes _ _ _ hroom =>
    rw [← flushed_eq_flush_state hroom] at hflush
    simpa [replayIsPrev] using hflush

/-- Settles O20: the invariant and the replay of `PREV` hold along the pass, and at its end `PREV = CUR`. -/
theorem finishedPassReplaysToCur : Obligations.FinishedPassReplaysToCur := by
  unfold Obligations.FinishedPassReplaysToCur
  intro cfg src k t hrun hdone
  have hv : configValid cfg = true := by
    cases k with
    | zero =>
      rw [← Host.Outcome.next.inj hrun] at hdone
      simp at hdone
    | succ k =>
      obtain ⟨u, hu, -⟩ := run_succ_eq_next hrun
      exact (stepped_of_step hu).1
  have hkept := run_keeps (P := fun s => Inv s ∧ replayIsPrev s)
    (fun s u h hu => ⟨stepKeepsTheInvariant s u h.1 hu, stepKeepsReplayEqualToPrev s u h.2 hu⟩)
    (resetHasTheInvariant.1 cfg src hv) hrun
  obtain ⟨hinv, p, hreplay, hp⟩ := hkept
  exact ⟨p, hreplay, hp.trans (hinv.doneEmitted hdone).1⟩

/-! ### Delay -/

/-- A step from a halted or exhausted state runs no wait. -/
theorem waitedBy_of_not_fetching {s : State} (h : halted s ∨ s.pc = s.cfg.maxOffset) : waitedBy s = 0 := by
  rw [waitedBy, if_neg]
  rintro ⟨hr, hpc⟩
  exact h.elim (· hr) hpc

theorem waitedBy_of_command {s : State} {i : Instr} (hr : s.status = .running) (hf : fetch s = .command i) :
    waitedBy s = samplesOf i := by
  obtain ⟨-, hlt, -⟩ := fetch_eq_command hf
  rw [waitedBy, if_pos ⟨hr, Nat.ne_of_lt hlt⟩, hf]

theorem waitedBy_of_badlyFramed {s : State} (hf : fetch s = .badlyFramed) : waitedBy s = 0 := by
  rw [waitedBy, hf]
  exact ite_self 0

/-- A step conserves delay: emitted ticks and pending samples grow by the samples it waits (R176). -/
theorem step_conserves {s t : State} (hs : wholeFrames s.out = true) (hstep : step s = .next t) :
    wholeFrames t.out = true ∧
    emittedTicks t.out * s.cfg.tickSamples + t.pendingDelay
      = emittedTicks s.out * s.cfg.tickSamples + s.pendingDelay + waitedBy s := by
  obtain ⟨hwhole, hsum⟩ := flush_conserves hs
  obtain ⟨-, hstepped⟩ := stepped_of_step hstep
  cases hstepped with
  | stays h => exact ⟨hs, by rw [waitedBy_of_not_fetching (.inl h), Nat.add_zero]⟩
  | exhausts _ hpc hroom =>
    rw [← flushed_eq_flush_state hroom] at hwhole hsum
    exact ⟨hwhole, by rw [waitedBy_of_not_fetching (.inr hpc)]; exact hsum⟩
  | faults _ _ hf => exact ⟨hs, by rw [waitedBy_of_badlyFramed hf]; rfl⟩
  | stops hr _ hcause =>
    have hwaited : waitedBy s = 0 := by
      rcases hcause with hpc | ⟨i, hf, hfl⟩
      · exact waitedBy_of_not_fetching (.inr hpc)
      · rw [waitedBy_of_command hr hf, samplesOf_of_flushesIn hfl]
    exact ⟨hwhole, by rw [hwaited]; exact hsum⟩
  | completes hr hf =>
    rw [waitedBy_of_command hr hf, complete_out, complete_pendingDelay, Nat.add_assoc]
    exact ⟨hs, rfl⟩
  | flushes hr hf _ hroom =>
    rw [← flushed_eq_flush_state hroom] at hwhole hsum
    rw [waitedBy_of_command hr hf, complete_out, complete_pendingDelay, ← Nat.add_assoc, hsum]
    exact ⟨hwhole, rfl⟩

/-- Settles O21, by induction on the number of steps. -/
theorem runsConserveDelay : Obligations.RunsConserveDelay := by
  unfold Obligations.RunsConserveDelay
  intro k s t hs hrun
  induction k generalizing s with
  | zero =>
    obtain rfl := Host.Outcome.next.inj hrun
    exact ⟨hs, rfl⟩
  | succ k ih =>
    obtain ⟨u, hstep, hrest⟩ := run_succ_eq_next hrun
    obtain ⟨hu, hfirst⟩ := step_conserves hs hstep
    obtain ⟨ht, hothers⟩ := ih u hu hrest
    rw [(stepKeepsConfigurationAndSource s u hstep).1] at hothers
    rw [hothers, hfirst, waitedOver, hstep, Nat.add_assoc]
    exact ⟨ht, rfl⟩

end Sys2Proof.Machine
end

section
/-!
# What a step never reads (20_memory.md R53, 10_state.md section 4) and what more room changes

`Unread.swap` puts other values where a step reads nothing: the source space, the bytes already in `OUT`, the entries
already in `UNKNOWN_LOG`. Every outcome of a step is the same after the swap, as long as the fetch is the same. With
more room instead, a run is the same until it would stop for want of room.
-/
namespace Sys2Proof.Machine

/-! ### A step is its outcome -/

/-- The converse of `stepped_of_step`. -/
theorem step_of_stepped {s t : State} (hv : configValid s.cfg = true) (h : Stepped s t) :
    step s = .next t := by
  cases h with
  | stays hs => exact step_of_halted hv hs
  | exhausts hr hpc hroom => rw [step_of_exhausted hv hr hpc, exhaustionStep_of_room hroom]
  | faults hr hpc hf => exact step_of_badlyFramed hv hr hpc hf
  | stops hr hroom hcause =>
    rcases hcause with hpc | ⟨i, hf, hfl⟩
    · rw [step_of_exhausted hv hr hpc, exhaustionStep_of_no_room hroom]
    · rw [step_of_command hv hr hf, exec_of_no_room (.inr (fetch_command_framed hf)) hfl hroom]
  | completes hr hf hfl =>
    rw [step_of_command hv hr hf, exec_of_no_flush (.inr (fetch_command_framed hf)) hfl]
  | flushes hr hf hfl hroom =>
    rw [step_of_command hv hr hf, exec_of_room (.inr (fetch_command_framed hf)) hfl hroom]

/-! ### What the fetch reads -/

/-- Two states give the fetch the same place and the same bounds and opcode map. -/
structure FetchAgree (s u : State) : Prop where
  pc : u.pc = s.pc
  startOffset : u.cfg.startOffset = s.cfg.startOffset
  maxOffset : u.cfg.maxOffset = s.cfg.maxOffset
  ops : u.cfg.ops = s.cfg.ops

namespace FetchAgree

variable {s u : State}

/-- A byte is read alike where the source spaces agree, and outside the bounds. -/
theorem srcByte_eq (h : FetchAgree s u) {off : Nat}
    (hread : s.cfg.startOffset ≤ off → off < s.cfg.maxOffset →
      Memory.read u.src off = Memory.read s.src off) :
    srcByte u off = srcByte s off := by
  unfold srcByte
  rw [h.startOffset, h.maxOffset]
  split
  · rename_i hb
    exact hread hb.1 hb.2
  · rfl

theorem memRead_eq {addr n : Nat}
    (hread : ∀ off, addr ≤ off → off < addr + n → srcByte u off = srcByte s off) :
    memRead u addr n = memRead s addr n := by
  induction n generalizing addr with
  | zero => rfl
  | succ n ih =>
    rw [memRead, memRead, hread addr (Nat.le_refl _) (by omega),
      ih fun off hlo hhi => hread off (by omega) (by omega)]

/-- The fetch reads the opcode byte and the operand bytes of its class alone (R53). -/
theorem fetch_eq (h : FetchAgree s u) (hop : srcByte u s.pc = srcByte s s.pc)
    (hoperands : ∀ op, srcByte s s.pc = some op →
      memRead u (s.pc + 1) (operandsRead (classify s.cfg.ops op))
        = memRead s (s.pc + 1) (operandsRead (classify s.cfg.ops op))) :
    fetch u = fetch s := by
  unfold fetch
  rw [h.pc, h.startOffset, h.maxOffset, h.ops, hop]
  split
  · rfl
  · cases hs : srcByte s s.pc with
    | none => rfl
    | some op =>
      have hw (len : Nat) : wellFramed len u = wellFramed len s := by
        rw [wellFramed, wellFramed, h.pc, h.maxOffset]
      simp only [hoperands op hs, hw]

/-- Where the source spaces agree inside the bounds, the fetch is the same. -/
theorem fetch_eq_of_read (h : FetchAgree s u)
    (hread : ∀ off, s.cfg.startOffset ≤ off → off < s.cfg.maxOffset →
      Memory.read u.src off = Memory.read s.src off) : fetch u = fetch s :=
  h.fetch_eq (h.srcByte_eq (hread _)) fun _ _ => memRead_eq fun off _ _ => h.srcByte_eq (hread off)

end FetchAgree

/-! ### Other values where a step reads nothing -/

/-- Values for what a step does not read. -/
structure Unread where
  /-- The source space. -/
  src : Memory
  /-- The first bytes of `OUT`. -/
  out : List Byte
  /-- What stands for the first entries of `UNKNOWN_LOG`. -/
  log : List LogEntry
  /-- How many entries those are. -/
  logged : Nat

/-- The state with these values. -/
def Unread.swap (r : Unread) (s : State) : State :=
  { s with
    src := r.src
    out := r.out ++ s.out.drop r.out.length
    unknownLog := r.log ++ s.unknownLog.drop r.logged }

/-- The state holds at least what is swapped. -/
structure Unread.Within (r : Unread) (s : State) : Prop where
  out : r.out.length ≤ s.out.length
  log : r.logged ≤ s.unknownLog.length

/-- Agreement of two Flush results is agreement of the states they leave. -/
theorem FlushResult.Agree.state {n : Nat} {a b : FlushResult} (h : FlushResult.Agree n a b) :
    EncoderAgree n a.state b.state := by
  cases h with
  | ok h => exact h
  | truncated h => exact h

/-- A Flush has room in a state exactly if it has in one that agrees with it on the Encoder's inputs. -/
theorem EncoderAgree.flushFits_eq {n : Nat} {s u : State} (h : EncoderAgree n s u) :
    flushFits u = flushFits s := by
  simp only [flushFits, flushBytes, h.firstFrame_eq, h.pendingTicks_eq, h.fits_eq]

namespace Unread

variable {r : Unread} {s t : State}

theorem fetchAgree (r : Unread) (s : State) : FetchAgree s (r.swap s) := ⟨rfl, rfl, rfl, rfl⟩

theorem encoderAgree (h : r.Within s) : EncoderAgree r.out.length s (r.swap s) where
  cur := rfl
  prev := rfl
  pendingDelay := rfl
  outLength := by simp [swap, Nat.add_sub_cancel' h.out]
  tickSamples := rfl
  outCapacity := rfl
  written := by simp [swap]

/-- Either outcome of a Flush commutes with the swap. -/
theorem flush_state_swap (h : r.Within s) : (flush (r.swap s)).state = r.swap (flush s).state := by
  have hagree := (encoderAgree h).flush_agree.state
  have hprev := hagree.prev
  have hpending := hagree.pendingDelay
  have hwritten := hagree.written
  obtain ⟨bytes, prev, delay, hs⟩ := flush_state_frame s
  obtain ⟨bytes', prev', delay', hu⟩ := flush_state_frame (r.swap s)
  rw [hs, hu] at hprev hpending hwritten
  rw [hs, hu]
  obtain rfl : prev' = prev := hprev
  obtain rfl : delay' = delay := hpending
  have hbytes : r.out ++ s.out.drop r.out.length ++ bytes' =
      r.out ++ (s.out ++ bytes).drop r.out.length := by
    rw [← hwritten]
    simp [swap]
  simpa [swap] using hbytes

theorem flushed_swap (h : r.Within s) (hroom : flushFits s = true) :
    flushed (r.swap s) = r.swap (flushed s) := by
  rw [flushed_eq_flush_state hroom, ← flush_state_swap h,
    flushed_eq_flush_state ((encoderAgree h).flushFits_eq.trans hroom)]

theorem complete_swap (i : Instr) (h : r.Within s) : complete i (r.swap s) = r.swap (complete i s) := by
  cases i with
  | unknown op => simp [complete, swap, raise, advance, List.drop_append_of_le_length h.log]
  | _ => rfl

theorem flushesIn_swap (i : Instr) : flushesIn i (r.swap s) ↔ flushesIn i s := by
  cases i <;> rfl

/-- Every outcome of a step commutes with the swap, if the fetch is the same. -/
theorem stepped_swap (h : r.Within s) (hfetch : s.pc ≠ s.cfg.maxOffset → fetch (r.swap s) = fetch s)
    (hstep : Stepped s t) : Stepped (r.swap s) (r.swap t) := by
  have hfits := (encoderAgree h).flushFits_eq
  have hflushed (hroom : flushFits s = true) : r.Within (flushed s) :=
    ⟨Nat.le_trans h.out (by simp), h.log⟩
  have hcommand {i : Instr} (hf : fetch s = .command i) : fetch (r.swap s) = .command i :=
    (hfetch (Nat.ne_of_lt (fetch_eq_command hf).2.1)).trans hf
  cases hstep with
  | stays hs => exact .stays hs
  | exhausts hr hpc hroom =>
    have := Stepped.exhausts (s := r.swap s) hr hpc (hfits.trans hroom)
    rwa [flushed_swap h hroom] at this
  | faults hr hpc hf => exact .faults (s := r.swap s) hr hpc ((hfetch hpc).trans hf)
  | stops hr hroom hcause =>
    have := Stepped.stops (s := r.swap s) hr (hfits.trans hroom)
      (hcause.imp_right fun ⟨i, hf, hfl⟩ => ⟨i, hcommand hf, (flushesIn_swap i).mpr hfl⟩)
    rwa [flush_state_swap h] at this
  | completes hr hf hfl =>
    have := Stepped.completes (s := r.swap s) hr (hcommand hf) (mt (flushesIn_swap _).mp hfl)
    rwa [complete_swap _ h] at this
  | flushes hr hf hfl hroom =>
    have := Stepped.flushes (s := r.swap s) hr (hcommand hf) ((flushesIn_swap _).mpr hfl)
      (hfits.trans hroom)
    rwa [flushed_swap h hroom, complete_swap _ (hflushed hroom)] at this

theorem step_swap (h : r.Within s) (hfetch : s.pc ≠ s.cfg.maxOffset → fetch (r.swap s) = fetch s)
    (hstep : step s = .next t) : step (r.swap s) = .next (r.swap t) := by
  obtain ⟨hv, hstepped⟩ := stepped_of_step hstep
  exact step_of_stepped hv (stepped_swap h hfetch hstepped)

end Unread

/-! ### What grows -/

theorem flush_state_out_prefix (s : State) : s.out <+: (flush s).state.out := by
  obtain ⟨bytes, _, _, h⟩ := flush_state_frame s
  rw [h]
  exact List.prefix_append _ _

theorem step_out_prefix {s t : State} (h : step s = .next t) : s.out <+: t.out := by
  obtain ⟨-, hstepped⟩ := stepped_of_step h
  cases hstepped with
  | stays => exact List.prefix_rfl
  | exhausts => exact List.prefix_append _ _
  | faults => exact List.prefix_rfl
  | stops => exact flush_state_out_prefix s
  | completes => simp
  | flushes => simp

theorem complete_unknownLog_prefix (i : Instr) (s : State) : s.unknownLog <+: (complete i s).unknownLog := by
  cases i with
  | unknown op => exact List.prefix_append _ _
  | _ => exact List.prefix_rfl

theorem step_unknownLog_prefix {s t : State} (h : step s = .next t) : s.unknownLog <+: t.unknownLog := by
  obtain ⟨-, hstepped⟩ := stepped_of_step h
  cases hstepped with
  | stays => exact List.prefix_rfl
  | exhausts => exact List.prefix_rfl
  | faults => exact List.prefix_rfl
  | stops => simp
  | completes => exact complete_unknownLog_prefix _ _
  | flushes => exact complete_unknownLog_prefix _ (flushed s)

theorem step_out_le {s t : State} (h : step s = .next t) (hle : s.out.length ≤ s.cfg.outCapacity) :
    t.out.length ≤ s.cfg.outCapacity := by
  have hflush := flush_state_out_le hle
  obtain ⟨-, hstepped⟩ := stepped_of_step h
  cases hstepped with
  | stays => exact hle
  | exhausts _ _ hroom => rwa [← flushed_eq_flush_state hroom] at hflush
  | faults => exact hle
  | stops => exact hflush
  | completes => simpa using hle
  | flushes _ _ _ hroom =>
    rw [← flushed_eq_flush_state hroom] at hflush
    simpa using hflush

/-! ### The obligations on what a step reads -/

/-- Settles O24: the bytes in `OUT` are swapped for others. -/
theorem outputIsAppendOnlyAndNeverRead : Obligations.OutputIsAppendOnlyAndNeverRead := by
  unfold Obligations.OutputIsAppendOnlyAndNeverRead
  intro s t hstep
  refine ⟨step_out_prefix hstep, step_out_le hstep, fun o ho => ?_⟩
  let r : Unread := ⟨s.src, o, [], 0⟩
  have hsrc := (stepKeepsConfigurationAndSource s t hstep).2.1
  have hswap := Unread.step_swap (r := r) ⟨Nat.le_of_eq ho, Nat.zero_le _⟩
    (fun _ => (Unread.fetchAgree r s).fetch_eq_of_read fun _ _ _ => rfl) hstep
  have hs : r.swap s = { s with out := o } := by simp [r, Unread.swap, ho]
  have ht : r.swap t = { t with out := o ++ t.out.drop s.out.length } := by
    simp [r, Unread.swap, ho, ← hsrc]
  rwa [hs, ht] at hswap

/-- Settles O25: the source space is swapped for another. -/
theorem bytesOutsideTheBoundsAreNeverRead : Obligations.BytesOutsideTheBoundsAreNeverRead := by
  unfold Obligations.BytesOutsideTheBoundsAreNeverRead
  intro s t other hread hstep
  exact Unread.step_swap (r := ⟨other, [], [], 0⟩) ⟨Nat.zero_le _, Nat.zero_le _⟩
    (fun _ => (Unread.fetchAgree _ s).fetch_eq_of_read hread) hstep

/-- Settles O26: the entries in `UNKNOWN_LOG` are swapped for others. -/
theorem unknownLogIsNeverRead : Obligations.UnknownLogIsNeverRead := by
  unfold Obligations.UnknownLogIsNeverRead
  intro s t log hstep
  refine ⟨step_unknownLog_prefix hstep, ?_⟩
  let r : Unread := ⟨s.src, [], log, s.unknownLog.length⟩
  have hsrc := (stepKeepsConfigurationAndSource s t hstep).2.1
  have hswap := Unread.step_swap (r := r) ⟨Nat.zero_le _, (Nat.le_refl _)⟩
    (fun _ => (Unread.fetchAgree r s).fetch_eq_of_read fun _ _ _ => rfl) hstep
  have hs : r.swap s = { s with unknownLog := log } := by simp [r, Unread.swap]
  have ht : r.swap t = { t with unknownLog := log ++ t.unknownLog.drop s.unknownLog.length } := by
    simp [r, Unread.swap, ← hsrc]
  rwa [hs, ht] at hswap

/-- How many bytes the fetch reads from `PC` on (R53). -/
theorem one_add_operandsRead (m : OpMap) (op : Byte) :
    1 + operandsRead (classify m op) ≤ if op = m.skip1 then 1 else commandLength m op := by
  by_cases hskip : classify m op = .skipSecondaryByte
  · have hop := hasOpcode_classify m op
    rw [hskip] at hop
    rw [if_pos (show op = m.skip1 from hop), hskip]
    exact Nat.le_refl 1
  · have hlen := operandsRead_add_unread (classify m op)
    split
    · rename_i hop
      exact absurd (by rw [classify, if_pos hop]) hskip
    · rw [operandsUnread_eq_nil hskip] at hlen
      exact Nat.le_of_eq hlen

/-- Settles O53: at `MAX_OFFSET` a step fetches nothing; elsewhere the fetch reads its opcode byte and the operand bytes
of its class. -/
theorem stepReadsOnlyItsListedBytes : Obligations.StepReadsOnlyItsListedBytes := by
  unfold Obligations.StepReadsOnlyItsListedBytes
  have swapped {s t : State} {other : Memory}
      (hfetch : s.pc ≠ s.cfg.maxOffset → fetch { s with src := other } = fetch s)
      (hstep : step s = .next t) : step { s with src := other } = .next { t with src := other } :=
    Unread.step_swap (r := ⟨other, [], [], 0⟩) ⟨Nat.zero_le _, Nat.zero_le _⟩ hfetch hstep
  refine ⟨fun s t other op hop hread hstep => swapped (fun _ => ?_) hstep,
    fun s t other hpc hstep => swapped (fun h => absurd hpc h) hstep⟩
  have hcount := one_add_operandsRead s.cfg.ops op
  have hagree : FetchAgree s { s with src := other } := ⟨rfl, rfl, rfl, rfl⟩
  refine hagree.fetch_eq (hagree.srcByte_eq fun _ _ => hread _ (Nat.le_refl _) (by omega)) fun op' hop' => ?_
  obtain ⟨-, -, hsame⟩ := srcByte_eq_some.mp hop'
  obtain rfl : op = op' := Option.some.inj (hop.symm.trans hsame)
  exact FetchAgree.memRead_eq fun off hlo hhi =>
    hagree.srcByte_eq fun _ _ => hread off (by omega) (by omega)

/-! ### More room -/

/-- The state with another capacity. -/
def withRoom (room : Nat) (s : State) : State := { s with cfg := { s.cfg with outCapacity := room } }

section
variable {room : Nat} {s t u : State}

theorem flushFits_withRoom (hle : s.cfg.outCapacity ≤ room) (h : flushFits s = true) :
    flushFits (withRoom room s) = true := by
  rw [flushFits, fits_iff] at h ⊢
  exact Nat.le_trans h hle

theorem complete_withRoom (i : Instr) : complete i (withRoom room s) = withRoom room (complete i s) := by
  cases i <;> rfl

theorem flushesIn_withRoom (i : Instr) : flushesIn i (withRoom room s) ↔ flushesIn i s := by
  cases i <;> rfl

theorem fetch_withRoom (room : Nat) (s : State) : fetch (withRoom room s) = fetch s :=
  FetchAgree.fetch_eq_of_read ⟨rfl, rfl, rfl, rfl⟩ fun _ _ _ => rfl

/-- The continuation frames that fill a buffer begin those that a Flush with room writes (R173). -/
theorem replicate_prefix_continuations {n ticks : Nat} (h : 3 * n ≤ ticks) :
    List.replicate n 0xC0#8 <+: (continuationFields ticks).flatMap continuationFrame := by
  obtain ⟨k, hk⟩ := Nat.exists_eq_add_of_le (show n ≤ ticks / 3 by omega)
  have hthrees (j : Nat) : (List.replicate j 3).flatMap continuationFrame = List.replicate j 0xC0#8 := by
    induction j with
    | zero => rfl
    | succ j ih => rw [List.replicate_succ, List.flatMap_cons, ih]; rfl
  rw [continuationFields, hk, ← List.replicate_append_replicate, List.append_assoc, List.flatMap_append, hthrees]
  exact List.prefix_append _ _

/-- What a truncated Flush has written begins what the same Flush writes with more room. -/
theorem flush_state_out_prefix_withRoom (hle : s.cfg.outCapacity ≤ room) (h : flushFits s = false) :
    (flush s).state.out <+: (flush (withRoom room s)).state.out := by
  rcases flush_of_no_room h with ⟨-, heq⟩ | ⟨hfirst, n, hticks, hfull, heq⟩
  · rw [heq]
    exact flush_state_out_prefix (withRoom room s)
  · rw [heq]
    show s.out ++ firstFrame s ++ List.replicate n 0xC0#8 <+: _
    cases hroom : flushFits (withRoom room s) with
    | true =>
      have hthree := delayField_le_three (pendingTicks s)
      rw [flush_of_room hroom, FlushResult.state_ok, flushed_out, flushBytes_eq, ← List.append_assoc]
      exact (List.prefix_append_right_inj _).mpr (replicate_prefix_continuations
        (ticks := pendingTicks s - delayField (pendingTicks s)) (by omega))
    | false =>
      rcases flush_of_no_room hroom with ⟨hno, -⟩ | ⟨-, n', -, hfull', heq'⟩
      · have := Nat.le_trans (fits_iff.mp hfirst) hle
        exact absurd this (Nat.not_le.mpr (fits_eq_false_iff.mp hno))
      · have hfull' : s.out.length + (firstFrame s).length + n' = room := hfull'
        rw [heq']
        exact (List.prefix_append_right_inj _).mpr
          (List.prefix_replicate_iff.mpr ⟨by simp; omega, by simp⟩)

/-- A step whose cause to Flush is known writes what its Flush writes. -/
theorem stepped_out_of_cause (h : Stepped s t) (hr : s.status = .running)
    (hcause : s.pc = s.cfg.maxOffset ∨ ∃ i, fetch s = .command i ∧ flushesIn i s) :
    t.out = (flush s).state.out := by
  cases h with
  | stays hs => exact absurd hr hs
  | exhausts _ _ hroom => rw [← flushed_eq_flush_state hroom]; rfl
  | faults _ hpc hf =>
    rcases hcause with hmax | ⟨i, hi, -⟩
    · exact absurd hmax hpc
    · rw [hf] at hi; cases hi
  | stops => rfl
  | completes _ hf hfl =>
    rcases hcause with hmax | ⟨i, hi, hfl'⟩
    · exact absurd hmax (Nat.ne_of_lt (fetch_eq_command hf).2.1)
    · rw [hf] at hi; cases hi; exact absurd hfl' hfl
  | flushes _ _ _ hroom => rw [complete_out, ← flushed_eq_flush_state hroom]

/-- Two runs side by side, the second with more room: they are alike but for the room, or the first has stopped for want
of it and the second has written what the first has, and perhaps more. -/
inductive MoreRoom (room : Nat) : State → State → Prop
  | same (s : State) : MoreRoom room s (withRoom room s)
  | stopped {s u : State} (hs : s.status = .stoppedCapacity) (hout : s.out <+: u.out) : MoreRoom room s u

/-- A step of both keeps the relation. -/
theorem moreRoom_step (hle : s.cfg.outCapacity ≤ room) (h : MoreRoom room s u) {v : State}
    (hs : step s = .next t) (hu : step u = .next v) : MoreRoom room t v := by
  obtain ⟨hv, hstepped⟩ := stepped_of_step hs
  cases h with
  | stopped hstop hout =>
    have hhalted : halted s := by simp [halted, hstop]
    obtain rfl := Host.Outcome.next.inj ((step_of_halted hv hhalted).symm.trans hs)
    exact .stopped hstop (hout.trans (step_out_prefix hu))
  | same =>
    have same {w : State} (hw : Stepped (withRoom room s) w) : v = w :=
      Host.Outcome.next.inj (hu.symm.trans (step_of_stepped hv hw))
    cases hstepped with
    | stays hh => exact same (.stays hh) ▸ .same _
    | exhausts hr hpc hroom =>
      exact same (.exhausts hr hpc (flushFits_withRoom hle hroom)) ▸ .same (halt _ (flushed s))
    | faults hr hpc hf =>
      exact same (.faults hr hpc ((fetch_withRoom room s).trans hf)) ▸ .same (raise _ s)
    | stops hr hroom hcause =>
      refine .stopped rfl ?_
      rw [stepped_out_of_cause (stepped_of_step hu).2 hr (hcause.imp_right fun ⟨i, hf, hfl⟩ =>
        ⟨i, (fetch_withRoom room s).trans hf, (flushesIn_withRoom i).mpr hfl⟩)]
      exact flush_state_out_prefix_withRoom hle hroom
    | @completes i hr hf hfl =>
      rw [same (.completes hr ((fetch_withRoom room s).trans hf) (mt (flushesIn_withRoom i).mp hfl)),
        complete_withRoom]
      exact .same _
    | @flushes i hr hf hfl hroom =>
      rw [same (.flushes hr ((fetch_withRoom room s).trans hf) ((flushesIn_withRoom i).mpr hfl)
        (flushFits_withRoom hle hroom)),
        show flushed (withRoom room s) = withRoom room (flushed s) from rfl, complete_withRoom]
      exact .same _

/-- Runs of both keep the relation. -/
theorem moreRoom_run {k : Nat} (hle : s.cfg.outCapacity ≤ room) (h : MoreRoom room s u) {v : State}
    (hs : Host.Core.run Sys2Proof.core k s = .next t) (hu : Host.Core.run Sys2Proof.core k u = .next v) :
    MoreRoom room t v := by
  induction k generalizing s u with
  | zero => exact Host.Outcome.next.inj hs ▸ Host.Outcome.next.inj hu ▸ h
  | succ k ih =>
    obtain ⟨s', hs1, hs⟩ := run_succ_eq_next hs
    obtain ⟨u', hu1, hu⟩ := run_succ_eq_next hu
    have hcfg := (stepKeepsConfigurationAndSource s s' hs1).1
    exact ih (hcfg ▸ hle) (moreRoom_step hle h hs1 hu1) hs hu

end

/-- Settles O22: the two runs stay in the relation `MoreRoom`. -/
theorem moreRoomOnlyExtendsTheOutput : Obligations.MoreRoomOnlyExtendsTheOutput := by
  unfold Obligations.MoreRoomOnlyExtendsTheOutput
  intro k s t u room hle hs hu
  have hwhole (h : wholeFrames s.out = true) := (runsConserveDelay k s t h hs).1
  cases moreRoom_run hle (.same s) hs hu with
  | same => exact ⟨List.prefix_rfl, hwhole, fun _ => rfl⟩
  | stopped hstop hout => exact ⟨hout, hwhole, fun h => absurd hstop h⟩

end Sys2Proof.Machine
end

section
/-!
# The meaning of each command (40_psg_write.md, 41_wait.md, 42_stream_control.md, 60_exceptions.md R204)
-/
namespace Sys2Proof.Machine

/-! ### Waits and stream control -/

/-- Settles O38: a wait invokes no Flush, and WAITN is the only one with a bound test. -/
theorem waitsAddTheirSamples : Obligations.WaitsAddTheirSamples := by
  unfold Obligations.WaitsAddTheirSamples
  exact ⟨fun s => exec_of_no_flush (i := .wait60) (.inl rfl) id,
    fun s => exec_of_no_flush (i := .wait50) (.inl rfl) id,
    fun n s => exec_of_no_flush (i := .waitS n) (.inl rfl) id,
    fun count s hle => exec_waitN_of_le hle⟩

/-- Settles O40: SKIP1 invokes no Flush. -/
theorem skipMovesOnlyPc : Obligations.SkipMovesOnlyPc := by
  unfold Obligations.SkipMovesOnlyPc
  exact fun b s hle => exec_of_no_flush (i := .skip1 b) (.inr hle) id

/-- Settles O41: UNKNOWN invokes no Flush. -/
theorem unknownIsRecordedAndSkipped : Obligations.UnknownIsRecordedAndSkipped := by
  unfold Obligations.UnknownIsRecordedAndSkipped
  exact fun op s => exec_of_no_flush (i := .unknown op) (.inl rfl) id

/-- Settles O42: EOD always invokes Flush. -/
theorem eodFlushesAndHalts : Obligations.EodFlushesAndHalts := by
  unfold Obligations.EodFlushesAndHalts
  exact fun s _ hroom => exec_of_room (i := .eod) (.inl rfl) trivial hroom

/-- Settles O43: a truncated Flush keeps what it does not write. -/
theorem eodWithoutRoomStops : Obligations.EodWithoutRoomStops := by
  unfold Obligations.EodWithoutRoomStops
  exact fun s _ hroom => ⟨_, exec_of_no_room (i := .eod) (.inl rfl) trivial hroom, rfl,
    by simp, by simp, by simp, by simp, by simp⟩

/-- Settles O44, by `exec_of_badlyFramed`. -/
theorem badlyFramedCommandsOnlyFault : Obligations.BadlyFramedCommandsOnlyFault := by
  unfold Obligations.BadlyFramedCommandsOnlyFault
  exact fun i s h1 hlt => exec_of_badlyFramed h1 hlt

/-! ### Register writes -/

/-- What a Register write with room applies its operand to (R101). -/
theorem flushedIfPending_cases {s : State} (h : roomToWrite s) :
    (s.pendingDelay = 0 ∧ flushedIfPending s = s) ∨
    (s.pendingDelay ≠ 0 ∧ flushFits s = true ∧ flushedIfPending s = flushed s) := by
  by_cases h0 : s.pendingDelay = 0
  · exact .inl ⟨h0, if_pos h0⟩
  · exact .inr ⟨h0, h.resolve_left h0, if_neg h0⟩

section
variable (s : State)

@[simp] theorem flushedIfPending_pc : (flushedIfPending s).pc = s.pc := by
  unfold flushedIfPending; split <;> rfl
@[simp] theorem flushedIfPending_cur : (flushedIfPending s).cur = s.cur := by
  unfold flushedIfPending; split <;> rfl
@[simp] theorem flushedIfPending_latch : (flushedIfPending s).latch = s.latch := by
  unfold flushedIfPending; split <;> rfl

end

/-- A Register write with room completes after its flush-before-write. -/
theorem exec_write_of_room {i : Instr} {s : State} (hf : framedIn i s)
    (hwrite : flushesIn i s ↔ s.pendingDelay ≠ 0) (hroom : roomToWrite s) :
    exec i s = .next (complete i (flushedIfPending s)) := by
  rcases flushedIfPending_cases hroom with ⟨h0, heq⟩ | ⟨h0, hfits, heq⟩
  · rw [heq, exec_of_no_flush hf fun hfl => hwrite.mp hfl h0]
  · rw [heq, exec_of_room hf (hwrite.mpr h0) hfits]

/-- The whole next state of a latch byte with room (R102). -/
theorem exec_psgwL_of_room {sel : BitVec 3} {val : Nibble} {s : State} (hle : s.pc + 2 ≤ s.cfg.maxOffset)
    (hroom : roomToWrite s) : exec (.psgwL sel val) s = .next { flushedIfPending s with
      latch := sel, pc := s.pc + 2, cur := s.cur.latchWrite (selectReg sel) val } := by
  rw [exec_write_of_room (.inr hle) Iff.rfl hroom]
  simp [complete, advance, applyLatch]

/-- The whole next state of a data byte with room (R106). -/
theorem exec_psgwD_of_room {ignored : BitVec 1} {hi : BitVec 6} {s : State}
    (hle : s.pc + 2 ≤ s.cfg.maxOffset) (hroom : roomToWrite s) :
    exec (.psgwD ignored hi) s = .next { flushedIfPending s with
      pc := s.pc + 2, cur := s.cur.dataWrite (selectReg s.latch) hi } := by
  rw [exec_write_of_room (.inr hle) Iff.rfl hroom]
  simp [complete, advance, applyData]

/-! ### The bits that a Register write stores -/

/-- The places of a byte's bits. -/
theorem lt_eight_cases {i : Nat} (h : i < 8) :
    i = 0 ∨ i = 1 ∨ i = 2 ∨ i = 3 ∨ i = 4 ∨ i = 5 ∨ i = 6 ∨ i = 7 := by
  omega

/-- A latch byte sets bits 1 and 0 of a tone (R103). -/
theorem toneAfterLatch_eq (old : Byte) (val : Nibble) :
    toneAfterLatch old val = (old.extractLsb' 2 6 ++ val.extractLsb' 2 2 : BitVec (6 + 2)) := by
  apply BitVec.eq_of_getLsbD_eq
  intro i hi
  rw [BitVec.getLsbD_append]
  rcases lt_eight_cases hi with rfl | rfl | rfl | rfl | rfl | rfl | rfl | rfl <;> simp [toneAfterLatch]

/-- A data byte sets bits 7 to 2 of a tone (R106). -/
theorem toneAfterData_eq (old : Byte) (bits : BitVec 6) :
    toneAfterData old bits = (bits ++ old.extractLsb' 0 2 : BitVec (6 + 2)) := by
  apply BitVec.eq_of_getLsbD_eq
  intro i hi
  rw [BitVec.getLsbD_append]
  rcases lt_eight_cases hi with rfl | rfl | rfl | rfl | rfl | rfl | rfl | rfl <;> simp [toneAfterData]

theorem volumeOf_eq (val : Nibble) : volumeOf val = BitVec.ofNat 4 (15 - val.toNat) := by
  revert val
  decide

/-- Settles O45: selectors 0, 2 and 4 name the tones. -/
theorem latchByteWritesToneLowBits : Obligations.LatchByteWritesToneLowBits := by
  unfold Obligations.LatchByteWritesToneLowBits
  refine ⟨fun val s _ hle hroom => ⟨exec_psgwL_of_room hle hroom, exec_psgwL_of_room hle hroom,
    exec_psgwL_of_room hle hroom⟩, fun old val => ?_⟩
  have hbits := toneAfterLatch_eq old val
  rw [toneAfterLatch] at hbits
  rw [hbits]
  exact ⟨BitVec.extractLsb'_append_eq_right, BitVec.extractLsb'_append_eq_left⟩

/-- Settles O46: selector 6 names the noise register. -/
theorem latchByteWritesNoise : Obligations.LatchByteWritesNoise := by
  unfold Obligations.LatchByteWritesNoise
  exact fun val s _ hle hroom => exec_psgwL_of_room hle hroom

/-- Settles O47: selectors 1, 3, 5 and 7 name the volumes, which are stored inverted. -/
theorem latchByteWritesInvertedVolume : Obligations.LatchByteWritesInvertedVolume := by
  unfold Obligations.LatchByteWritesInvertedVolume
  intro val s _ hle hroom
  rw [← volumeOf_eq]
  exact ⟨exec_psgwL_of_room hle hroom, exec_psgwL_of_room hle hroom, exec_psgwL_of_room hle hroom,
    exec_psgwL_of_room hle hroom⟩

/-- Settles O48: a data byte puts its six bits above the two that the tone keeps. -/
theorem dataByteWritesToneHighBits : Obligations.DataByteWritesToneHighBits := by
  unfold Obligations.DataByteWritesToneHighBits
  intro ignored hi s _ hle hroom
  rw [exec_psgwD_of_room hle hroom]
  simp only [← toneAfterData_eq]
  refine ⟨fun h => ?_, fun h => ?_, fun h => ?_⟩ <;> rw [h] <;> rfl

/-- Settles O49: these selectors name 4-bit registers. -/
theorem dataByteOnFourBitRegisterIsDiscarded : Obligations.DataByteOnFourBitRegisterIsDiscarded := by
  unfold Obligations.DataByteOnFourBitRegisterIsDiscarded
  intro ignored hi s _ hle hroom hlatch
  have hkeep : s.cur.dataWrite (selectReg s.latch) hi = s.cur := by
    rcases hlatch with h | h | h | h | h <;> rw [h] <;> rfl
  rw [exec_psgwD_of_room hle hroom, hkeep, ← flushedIfPending_cur]

/-- Settles O50: both forms stop in the state that their truncated Flush leaves. -/
theorem registerWriteWithoutRoomIsAbandoned : Obligations.RegisterWriteWithoutRoomIsAbandoned := by
  unfold Obligations.RegisterWriteWithoutRoomIsAbandoned
  exact fun sel val ignored hi s _ hle h0 hroom => ⟨_,
    exec_of_no_room (i := .psgwL sel val) (.inr hle) h0 hroom,
    exec_of_no_room (i := .psgwD ignored hi) (.inr hle) h0 hroom, rfl,
    by simp, by simp, by simp, by simp, by simp⟩

/-- The two writes of a tone leave bits 9 to 2 of its period, whatever it held (R109). -/
theorem tone_after_both_writes (old : Byte) (p : BitVec 10) :
    toneAfterData (toneAfterLatch old (p.extractLsb' 0 4)) (p.extractLsb' 4 6) = p.extractLsb' 2 8 := by
  rw [toneAfterData_eq, toneAfterLatch_eq, BitVec.extractLsb'_append_eq_right]
  apply BitVec.eq_of_getLsbD_eq
  intro i hi
  rw [BitVec.getLsbD_append]
  rcases lt_eight_cases hi with rfl | rfl | rfl | rfl | rfl | rfl | rfl | rfl <;> simp

/-- The three tones. -/
theorem fin_three_cases : ∀ k : Fin 3, k = 0 ∨ k = 1 ∨ k = 2 := by decide

/-- Settles O51: the data byte goes to the tone that the latch byte selected. -/
theorem toneWriteStoresPeriodBitsNineToTwo : Obligations.ToneWriteStoresPeriodBitsNineToTwo := by
  unfold Obligations.ToneWriteStoresPeriodBitsNineToTwo
  intro k p s h0 hle
  have hs : flushedIfPending s = s := if_pos h0
  have hfirst := exec_psgwL_of_room (sel := BitVec.ofNat 3 (2 * k.val)) (val := p.extractLsb' 0 4) (s := s)
    (by omega) (.inl h0)
  rw [hs] at hfirst
  refine ⟨_, _, _, _, rfl, hfirst, exec_psgwD_of_room hle (.inl h0), ?_⟩
  rw [flushedIfPending, if_pos h0]
  rcases fin_three_cases k with rfl | rfl | rfl <;>
    simp [selectReg, Regs.latchWrite, Regs.dataWrite, tone_after_both_writes]

/-! ### The wire registers -/

/-- A latch byte stores the top of the period's new low nibble (R21, R109). -/
theorem toneAfterLatch_stored (p : BitVec 10) (val : Nibble) :
    toneAfterLatch (p.extractLsb' 2 8) val = (periodLow p val).extractLsb' 2 8 := by
  rw [toneAfterLatch_eq]
  apply BitVec.eq_of_getLsbD_eq
  intro i hi
  rw [BitVec.getLsbD_append, BitVec.getLsbD_extractLsb' (x := periodLow p val), periodLow,
    BitVec.getLsbD_append]
  rcases lt_eight_cases hi with rfl | rfl | rfl | rfl | rfl | rfl | rfl | rfl <;> simp

/-- A data byte stores the period's new high bits (R21, R109). -/
theorem toneAfterData_stored (p : BitVec 10) (bits : BitVec 6) :
    toneAfterData (p.extractLsb' 2 8) bits = (periodHigh p bits).extractLsb' 2 8 := by
  rw [toneAfterData_eq]
  apply BitVec.eq_of_getLsbD_eq
  intro i hi
  rw [BitVec.getLsbD_append, BitVec.getLsbD_extractLsb' (x := periodHigh p bits), periodHigh,
    BitVec.getLsbD_append]
  rcases lt_eight_cases hi with rfl | rfl | rfl | rfl | rfl | rfl | rfl | rfl <;> simp

/-- A latch byte does to the stored registers what it does to the wire registers (R109). -/
theorem stored_latch (w : WireRegs) (r : Reg) (val : Nibble) :
    w.stored.latchWrite r val = (w.latch r val).stored := by
  cases r with
  | tone0 | tone1 | tone2 =>
    simp [Regs.latchWrite, WireRegs.latch, WireRegs.stored, toneAfterLatch_stored]
  | vol0 | vol1 | vol2 | volN | noise => rfl

/-- A data byte does to the stored registers what it does to the wire registers (R107, R109). -/
theorem stored_data (w : WireRegs) (hi : BitVec 6) :
    w.stored.dataWrite w.latched hi = (w.data hi).stored := by
  unfold Regs.dataWrite WireRegs.data
  cases w.latched with
  | tone0 | tone1 | tone2 => simp [WireRegs.stored, toneAfterData_stored]
  | vol0 | vol1 | vol2 | volN | noise => rfl

theorem data_latched (w : WireRegs) (hi : BitVec 6) : (w.data hi).latched = w.latched := by
  unfold WireRegs.data
  split <;> rfl

theorem latch_latched (w : WireRegs) (r : Reg) (val : Nibble) : (w.latch r val).latched = r := by
  cases r <;> rfl

/-- A command that completes does to `CUR` and `LATCH` what it does to the wire registers. -/
theorem complete_tracks {i : Instr} {s : State} {w : WireRegs} (hcur : s.cur = w.stored)
    (hlatch : selectReg s.latch = w.latched) :
    (complete i s).cur = (w.after i).stored ∧ selectReg (complete i s).latch = (w.after i).latched := by
  cases i with
  | psgwL sel val =>
    refine ⟨?_, (latch_latched w _ val).symm⟩
    show s.cur.latchWrite (selectReg sel) val = (w.latch (selectReg sel) val).stored
    rw [hcur, stored_latch]
  | psgwD ignored hi =>
    refine ⟨?_, hlatch.trans (data_latched w hi).symm⟩
    show s.cur.dataWrite (selectReg s.latch) hi = (w.data hi).stored
    rw [hcur, hlatch, stored_data]
  | _ => exact ⟨hcur, hlatch⟩

/-- Settles O52, by the outcomes of a command. -/
theorem storedRegistersTrackTheWire : Obligations.StoredRegistersTrackTheWire := by
  unfold Obligations.StoredRegistersTrackTheWire
  intro i s t w hr hcur hlatch hexec
  rcases exec_outcomes hexec with ⟨-, -, rfl⟩ | ⟨-, -, -, rfl⟩ | ⟨-, u, rfl, hu⟩
  · exact ⟨fun h => by simp at h, fun _ => ⟨hcur, hlatch⟩⟩
  · exact ⟨fun h => by simp at h, fun _ => by simpa using ⟨hcur, hlatch⟩⟩
  · have hkept : u.cur = s.cur ∧ u.latch = s.latch ∧ u.status = s.status := by
      rcases hu with ⟨-, rfl⟩ | ⟨-, -, rfl⟩ <;> exact ⟨rfl, rfl, rfl⟩
    obtain ⟨hucur, hulatch, hustatus⟩ := hkept
    have htracks := complete_tracks (i := i) (hucur.trans hcur) ((congrArg _ hulatch).trans hlatch)
    refine ⟨fun _ => htracks, fun hhalt => ?_⟩
    by_cases he : i = .eod
    · subst he
      exact htracks
    · exact absurd ((complete_status_of_ne_eod i u he).trans (hustatus.trans hr)) hhalt

/-! ### Conditions and writers -/

/-- Only UNKNOWN adds to the log (R146). -/
theorem complete_unknownLog_ne_iff (i : Instr) (s : State) :
    (complete i s).unknownLog ≠ s.unknownLog ↔ ∃ op, i = .unknown op := by
  cases i with
  | unknown op => simp [complete]
  | _ => exact iff_of_false (fun h => h rfl) (by simp)

/-- Settles O27, by the outcomes of a command. -/
theorem conditionsEachCommandRaises : Obligations.ConditionsEachCommandRaises := by
  unfold Obligations.ConditionsEachCommandRaises
  intro i s t _ hr hexec
  rcases exec_outcomes hexec with ⟨h1, hlt, rfl⟩ | ⟨hf, hfl, hroom, rfl⟩ | ⟨hf, u, rfl, hu⟩
  · have hlong : i ≠ .eod ∧ ∀ op, i ≠ .unknown op :=
      ⟨by rintro rfl; simp [Instr.length] at h1, by rintro op rfl; simp [Instr.length] at h1⟩
    exact ⟨iff_of_true rfl ⟨h1, hlt⟩, iff_of_false (by simp) fun h => not_framedIn h1 hlt h.1,
      iff_of_false (by simp) fun h => hlong.1 h.1, by simp,
      iff_of_false (by simp) fun ⟨op, h⟩ => hlong.2 op h⟩
  · exact ⟨iff_of_false (by simp) fun h => not_framedIn h.1 h.2 hf, iff_of_true rfl ⟨hf, hfl, hroom⟩,
      iff_of_false (by simp) fun h => by simp [hroom] at h, by simp,
      iff_of_false (by simp) fun ⟨op, h⟩ => by subst h; exact hfl⟩
  · have hkept : u.status = .running ∧ u.unknownLog = s.unknownLog := by
      rcases hu with ⟨-, rfl⟩ | ⟨-, -, rfl⟩ <;> exact ⟨hr, rfl⟩
    have hnotStopped : ¬(framedIn i s ∧ flushesIn i s ∧ flushFits s = false) := by
      rintro ⟨-, hfl, hroom⟩
      rcases hu with ⟨hno, -⟩ | ⟨-, hyes, -⟩
      · exact hno hfl
      · simp [hroom] at hyes
    have hlog := complete_unknownLog_ne_iff i u
    rw [hkept.2] at hlog
    have hnotFramed : ¬(1 < i.length ∧ s.cfg.maxOffset < s.pc + i.length) :=
      fun h => not_framedIn h.1 h.2 hf
    by_cases he : i = .eod
    · have hfits : flushFits s = true := by
        subst he
        rcases hu with ⟨hno, -⟩ | ⟨-, hyes, -⟩
        · exact absurd trivial hno
        · exact hyes
      have hstatus : (complete i u).status = .doneEnd := by rw [he]; rfl
      rw [hstatus]
      exact ⟨iff_of_false (by simp) hnotFramed, iff_of_false (by simp) hnotStopped,
        iff_of_true rfl ⟨he, hfits⟩, by simp, hlog⟩
    · rw [(complete_status_of_ne_eod i u he).trans hkept.1]
      exact ⟨iff_of_false (by simp) hnotFramed, iff_of_false (by simp) hnotStopped,
        iff_of_false (by simp) fun h => he h.1, by simp, hlog⟩

/-- Only a latch byte writes `LATCH` (R28). -/
theorem complete_latch {i : Instr} (s : State) (h : ∀ sel val, i ≠ .psgwL sel val) :
    (complete i s).latch = s.latch := by
  cases i with
  | psgwL sel val => exact absurd rfl (h sel val)
  | _ => rfl

/-- Only a Register write writes `CUR` (R24). -/
theorem complete_cur {i : Instr} (s : State) (hl : ∀ sel val, i ≠ .psgwL sel val)
    (hd : ∀ b hi, i ≠ .psgwD b hi) : (complete i s).cur = s.cur := by
  cases i with
  | psgwL sel val => exact absurd rfl (hl sel val)
  | psgwD b hi => exact absurd rfl (hd b hi)
  | _ => rfl

/-- Settles O28, by the outcomes of a command. -/
theorem writersOfTheRegisterFilesAndOutput : Obligations.WritersOfTheRegisterFilesAndOutput := by
  unfold Obligations.WritersOfTheRegisterFilesAndOutput
  intro i s t hexec
  rcases exec_outcomes hexec with ⟨-, -, rfl⟩ | ⟨-, hfl, -, rfl⟩ | ⟨-, u, rfl, hu⟩
  · exact ⟨fun _ => ⟨rfl, fun _ => rfl⟩, fun _ => ⟨rfl, rfl⟩⟩
  · exact ⟨fun _ => ⟨by simp, fun _ => by simp⟩, fun hno => absurd hfl hno⟩
  · have hkept : u.cur = s.cur ∧ u.latch = s.latch := by
      rcases hu with ⟨-, rfl⟩ | ⟨-, -, rfl⟩ <;> exact ⟨rfl, rfl⟩
    refine ⟨fun hl => ⟨(complete_latch u hl).trans hkept.2, fun hd => (complete_cur u hl hd).trans hkept.1⟩,
      fun hno => ?_⟩
    rcases hu with ⟨-, rfl⟩ | ⟨hfl, -⟩
    · exact ⟨complete_out i u, complete_prev i u⟩
    · exact absurd hfl hno

end Sys2Proof.Machine
end
